-- ==== Sys2Proof/Word.lean ====
section
/-! DEFINITION. The words of the block: the 32-bit bus and command word, the byte of the register window, and the
number of a bignum register. -/

namespace Sys2Proof

/-- A 32-bit word: a command word (30_encoding.md R70) or the data of one host access (20_memory.md R52). -/
abbrev Word := BitVec 32

/-- One byte of the register window (20_memory.md R54). -/
abbrev Byte := BitVec 8

/-- The number of bignum registers, NREG (00_scope.md R4). -/
abbrev nreg : Nat := 16

/-- The number of a bignum register, `0` to `15`; all are valid and none is hardwired (10_state.md R20). -/
abbrev Reg := Fin nreg

end Sys2Proof
end

