-- ==== Sys2Proof/Syntax.lean ====
section
/-! DEFINITION. The commands of the block: one constructor for each row of the opcode map (30_encoding.md R73).
Operands stand in the order of the assembler form. -/

namespace Sys2Proof

/-- A command. `d`, `q`, `r` are destinations, `a`, `b`, `e`, `m`, `k` sources, `imm` the unsigned 16-bit immediate. -/
inductive Instr where
  /-- `ADD xd, xa, xb` (42_add_sub.md R120). -/
  | add (d a b : Reg)
  /-- `SUB xd, xa, xb` (42_add_sub.md R121). -/
  | sub (d a b : Reg)
  /-- `INC xd` (42_add_sub.md R122). -/
  | inc (d : Reg)
  /-- `DEC xd` (42_add_sub.md R123). -/
  | dec (d : Reg)
  /-- `MUL xd, xa, xb` (43_mul.md R140). -/
  | mul (d a b : Reg)
  /-- `DIV xd, xa, xb` (44_divide.md R151). -/
  | div (d a b : Reg)
  /-- `MOD xd, xa, xb` (44_divide.md R152). -/
  | mod (d a b : Reg)
  /-- `DIVMOD xq, xr, xa, xb` (44_divide.md R153). -/
  | divmod (q r a b : Reg)
  /-- `AND xd, xa, xb` (45_bitwise.md R170). -/
  | and (d a b : Reg)
  /-- `OR xd, xa, xb` (45_bitwise.md R171). -/
  | or (d a b : Reg)
  /-- `XOR xd, xa, xb` (45_bitwise.md R172). -/
  | xor (d a b : Reg)
  /-- `LSH xd, xa, xk` (46_shift.md R181). -/
  | lsh (d a k : Reg)
  /-- `RSH xd, xa, xk` (46_shift.md R182). -/
  | rsh (d a k : Reg)
  /-- `LSHI xd, xa, imm` (46_shift.md R183). -/
  | lshi (d a : Reg) (imm : BitVec 16)
  /-- `RSHI xd, xa, imm` (46_shift.md R184). -/
  | rshi (d a : Reg) (imm : BitVec 16)
  /-- `POW xd, xb, xe` (47_exp.md R201). -/
  | pow (d b e : Reg)
  /-- `POWMOD xd, xb, xe, xm` (47_exp.md R203). -/
  | powmod (d b e m : Reg)
  /-- `CMP xa, xb` (41_move_compare.md R102). -/
  | cmp (a b : Reg)
  /-- `TST xa` (41_move_compare.md R103). -/
  | tst (a : Reg)
  /-- `MOV xd, xa` (41_move_compare.md R100). -/
  | mov (d a : Reg)
  /-- `LI xd, imm` (41_move_compare.md R101). -/
  | li (d : Reg) (imm : BitVec 16)
deriving DecidableEq, Repr

/-- The registers a command's rule writes (files 41 to 47). -/
def Instr.dests : Instr → List Reg
  | .add d _ _ | .sub d _ _ | .inc d | .dec d | .mul d _ _ | .div d _ _ | .mod d _ _ => [d]
  | .divmod q r _ _ => [q, r]
  | .and d _ _ | .or d _ _ | .xor d _ _ | .lsh d _ _ | .rsh d _ _ | .lshi d _ _ | .rshi d _ _ => [d]
  | .pow d _ _ | .powmod d _ _ _ | .mov d _ | .li d _ => [d]
  | .cmp _ _ | .tst _ => []

/-- The register whose zero value makes a command raise DIVZ (60_exceptions.md R223). -/
def Instr.divisor? : Instr → Option Reg
  | .div _ _ b | .mod _ _ b | .divmod _ _ _ b => some b
  | .powmod _ _ _ m => some m
  | .add _ _ _ | .sub _ _ _ | .inc _ | .dec _ | .mul _ _ _ | .and _ _ _ | .or _ _ _ | .xor _ _ _ => none
  | .lsh _ _ _ | .rsh _ _ _ | .lshi _ _ _ | .rshi _ _ _ | .pow _ _ _ | .cmp _ _ | .tst _ | .mov _ _ | .li _ _ => none

end Sys2Proof
end

