-- ==== Sys2Proof/WellFormed.lean ====
section
/-! DEFINITION. Which commands a command word can stand for. Register numbers and immediates are bounded by their
types; the one further check is DIVMOD's two destinations (30_encoding.md R74, 44_divide.md R153). -/

namespace Sys2Proof

/-- DIVMOD names two different destinations; every other command is well formed as it stands. -/
def Instr.wf : Instr → Bool
  | .divmod q r _ _ => decide (q ≠ r)
  | .add _ _ _ | .sub _ _ _ | .inc _ | .dec _ | .mul _ _ _ | .div _ _ _ | .mod _ _ _ => true
  | .and _ _ _ | .or _ _ _ | .xor _ _ _ | .lsh _ _ _ | .rsh _ _ _ | .lshi _ _ _ | .rshi _ _ _ => true
  | .pow _ _ _ | .powmod _ _ _ _ | .cmp _ _ | .tst _ | .mov _ _ | .li _ _ => true

end Sys2Proof
end

