-- ==== Sys2Proof/Decode.lean ====
section
/-! DEFINITION. The command encoding (30_encoding.md R70 to R75): the fields of a command word, its formats, the
decoder, total on every word and rejecting by name, and after it the encoder. -/

namespace Sys2Proof

/-! ## Fields (30_encoding.md R71) -/

/-- `w.op`, bits 31:24. -/
def opField (w : Word) : BitVec 8 := w.extractLsb' 24 8

/-- The register number in the four bits of `w` that start at bit `lo`. -/
def regField (lo : Nat) (w : Word) : Reg := ⟨(w.extractLsb' lo 4).toNat, (w.extractLsb' lo 4).isLt⟩

/-- `w.A`, bits 23:20. -/
def fieldA (w : Word) : Reg := regField 20 w

/-- `w.B`, bits 19:16. -/
def fieldB (w : Word) : Reg := regField 16 w

/-- `w.C`, bits 15:12. -/
def fieldC (w : Word) : Reg := regField 12 w

/-- `w.D`, bits 11:8. -/
def fieldD (w : Word) : Reg := regField 8 w

/-- `w.imm16`, bits 15:0, unsigned. -/
def fieldImm16 (w : Word) : BitVec 16 := w.extractLsb' 0 16

/-! ## Formats (30_encoding.md R73) -/

/-- The eight formats. -/
inductive Format where
  | r4
  | r3
  | r2
  | r1
  | rc
  | rt
  | ri
  | i
deriving DecidableEq, Repr

/-- A format's mask: a 1 in every bit its pattern fixes. -/
def Format.mask : Format → Word
  | .r4 => 0xFF0000FF#32
  | .r3 => 0xFF000FFF#32
  | .r2 => 0xFF00FFFF#32
  | .r1 => 0xFF0FFFFF#32
  | .rc => 0xFFF00FFF#32
  | .rt => 0xFFF0FFFF#32
  | .ri => 0xFF000000#32
  | .i => 0xFF0F0000#32

/-- A row's match value: the opcode in bits 31:24, every fixed-zero bit 0 (30_encoding.md R74). -/
def matchWord (op : BitVec 8) : Word := op ++ 0#24

/-! ## Decoding (30_encoding.md R74, R75) -/

/-- Why a word is no command. Each raises ILLEGAL at the commit (60_exceptions.md R222). -/
inductive DecodeError where
  /-- The opcode is 0x00 or one of 0x16 to 0xFF (R75). -/
  | reservedOpcode
  /-- The opcode is defined, but a field its format fixes at zero is not zero (R74). -/
  | nonzeroFixedField
  /-- DIVMOD with `w.A = w.D` (R74, 44_divide.md R153). -/
  | divmodSameDestinations
deriving DecidableEq, Repr

/-- The command `i` if `w` has the fixed bits of the row with this format and opcode. -/
def decodeAs (f : Format) (op : BitVec 8) (w : Word) (i : Instr) : Except DecodeError Instr :=
  if w &&& f.mask = matchWord op then .ok i else .error .nonzeroFixedField

/-- DIVMOD's own check, made after its row has matched. -/
def refuseSameDestinations : Instr → Except DecodeError Instr
  | i => if i.wf then .ok i else .error .divmodSameDestinations

/-- `decode(w)` of 30_encoding.md R74: the command of the one row that matches, or the reason why there is none. -/
def decode (w : Word) : Except DecodeError Instr :=
  match (opField w).toNat with
  | 0x01 => decodeAs .r3 0x01#8 w (.add (fieldA w) (fieldB w) (fieldC w))
  | 0x02 => decodeAs .r3 0x02#8 w (.sub (fieldA w) (fieldB w) (fieldC w))
  | 0x03 => decodeAs .r1 0x03#8 w (.inc (fieldA w))
  | 0x04 => decodeAs .r1 0x04#8 w (.dec (fieldA w))
  | 0x05 => decodeAs .r3 0x05#8 w (.mul (fieldA w) (fieldB w) (fieldC w))
  | 0x06 => decodeAs .r3 0x06#8 w (.div (fieldA w) (fieldB w) (fieldC w))
  | 0x07 => decodeAs .r3 0x07#8 w (.mod (fieldA w) (fieldB w) (fieldC w))
  | 0x08 => (decodeAs .r4 0x08#8 w (.divmod (fieldA w) (fieldD w) (fieldB w) (fieldC w))).bind refuseSameDestinations
  | 0x09 => decodeAs .r3 0x09#8 w (.and (fieldA w) (fieldB w) (fieldC w))
  | 0x0A => decodeAs .r3 0x0A#8 w (.or (fieldA w) (fieldB w) (fieldC w))
  | 0x0B => decodeAs .r3 0x0B#8 w (.xor (fieldA w) (fieldB w) (fieldC w))
  | 0x0C => decodeAs .r3 0x0C#8 w (.lsh (fieldA w) (fieldB w) (fieldC w))
  | 0x0D => decodeAs .r3 0x0D#8 w (.rsh (fieldA w) (fieldB w) (fieldC w))
  | 0x0E => decodeAs .ri 0x0E#8 w (.lshi (fieldA w) (fieldB w) (fieldImm16 w))
  | 0x0F => decodeAs .ri 0x0F#8 w (.rshi (fieldA w) (fieldB w) (fieldImm16 w))
  | 0x10 => decodeAs .r3 0x10#8 w (.pow (fieldA w) (fieldB w) (fieldC w))
  | 0x11 => decodeAs .r4 0x11#8 w (.powmod (fieldA w) (fieldB w) (fieldC w) (fieldD w))
  | 0x12 => decodeAs .rc 0x12#8 w (.cmp (fieldB w) (fieldC w))
  | 0x13 => decodeAs .rt 0x13#8 w (.tst (fieldB w))
  | 0x14 => decodeAs .r2 0x14#8 w (.mov (fieldA w) (fieldB w))
  | 0x15 => decodeAs .i 0x15#8 w (.li (fieldA w) (fieldImm16 w))
  | _ => .error .reservedOpcode

/-- What the decoder reads from a word of the opcode table's numbering: bit 0 is the least significant bit of the one
32-bit word, which the host writes whole to CMD (30_encoding.md R70). -/
def decodeTableWord (nbits w : Nat) : Option Instr := (decode (BitVec.ofNat 32 (w % 2 ^ nbits))).toOption

/-! ## Encoding -/

/-- The four bits of a register field. -/
def regBits (r : Reg) : BitVec 4 := BitVec.ofNat 4 r.val

/-- A word of the register formats: op, A, B, C, D and the zero byte (30_encoding.md R71). -/
def packRegs (op : BitVec 8) (a b c d : Reg) : Word := op ++ regBits a ++ regBits b ++ regBits c ++ regBits d ++ 0#8

/-- A word of the immediate formats: op, A, B and imm16 (30_encoding.md R71). -/
def packImm (op : BitVec 8) (a b : Reg) (imm : BitVec 16) : Word := op ++ regBits a ++ regBits b ++ imm

/-- A command's opcode (30_encoding.md R73). -/
def Instr.opcode : Instr → BitVec 8
  | .add _ _ _ => 0x01#8
  | .sub _ _ _ => 0x02#8
  | .inc _ => 0x03#8
  | .dec _ => 0x04#8
  | .mul _ _ _ => 0x05#8
  | .div _ _ _ => 0x06#8
  | .mod _ _ _ => 0x07#8
  | .divmod _ _ _ _ => 0x08#8
  | .and _ _ _ => 0x09#8
  | .or _ _ _ => 0x0A#8
  | .xor _ _ _ => 0x0B#8
  | .lsh _ _ _ => 0x0C#8
  | .rsh _ _ _ => 0x0D#8
  | .lshi _ _ _ => 0x0E#8
  | .rshi _ _ _ => 0x0F#8
  | .pow _ _ _ => 0x10#8
  | .powmod _ _ _ _ => 0x11#8
  | .cmp _ _ => 0x12#8
  | .tst _ => 0x13#8
  | .mov _ _ => 0x14#8
  | .li _ _ => 0x15#8

/-- A command's format (30_encoding.md R73). -/
def Instr.format : Instr → Format
  | .add _ _ _ | .sub _ _ _ | .mul _ _ _ | .div _ _ _ | .mod _ _ _ => .r3
  | .and _ _ _ | .or _ _ _ | .xor _ _ _ | .lsh _ _ _ | .rsh _ _ _ | .pow _ _ _ => .r3
  | .inc _ | .dec _ => .r1
  | .divmod _ _ _ _ | .powmod _ _ _ _ => .r4
  | .lshi _ _ _ | .rshi _ _ _ => .ri
  | .cmp _ _ => .rc
  | .tst _ => .rt
  | .mov _ _ => .r2
  | .li _ _ => .i

/-- The command word of a command: the field use of 30_encoding.md R73, fields the format fixes at zero zero. -/
def encode (i : Instr) : Word :=
  match i with
  | .add d a b => packRegs i.opcode d a b 0
  | .sub d a b => packRegs i.opcode d a b 0
  | .inc d => packRegs i.opcode d 0 0 0
  | .dec d => packRegs i.opcode d 0 0 0
  | .mul d a b => packRegs i.opcode d a b 0
  | .div d a b => packRegs i.opcode d a b 0
  | .mod d a b => packRegs i.opcode d a b 0
  | .divmod q r a b => packRegs i.opcode q a b r
  | .and d a b => packRegs i.opcode d a b 0
  | .or d a b => packRegs i.opcode d a b 0
  | .xor d a b => packRegs i.opcode d a b 0
  | .lsh d a k => packRegs i.opcode d a k 0
  | .rsh d a k => packRegs i.opcode d a k 0
  | .lshi d a imm => packImm i.opcode d a imm
  | .rshi d a imm => packImm i.opcode d a imm
  | .pow d b e => packRegs i.opcode d b e 0
  | .powmod d b e m => packRegs i.opcode d b e m
  | .cmp a b => packRegs i.opcode 0 a b 0
  | .tst a => packRegs i.opcode 0 a 0 0
  | .mov d a => packRegs i.opcode d a 0 0
  | .li d imm => packImm i.opcode d 0 imm

end Sys2Proof
end

