-- ==== Sys2Proof/Config.lean ====
section
/-! DEFINITION. The configuration of a block: the parameters 00_scope.md R4 leaves open, with their side conditions.
It is fixed for the life of the block (10_state.md R36). Every claim of the model ranges over all configurations. -/

namespace Sys2Proof

/-- The limb widths 00_scope.md R4 allows. -/
inductive LimbWidth where
  | w8
  | w16
  | w32
  | w64
deriving DecidableEq, Repr

/-- A limb width in bits. -/
def LimbWidth.bits : LimbWidth → Nat
  | .w8 => 8
  | .w16 => 16
  | .w32 => 32
  | .w64 => 64

/-- The limb width of so many bits, if it is one of the four. -/
def LimbWidth.ofBits? : Nat → Option LimbWidth
  | 8 => some .w8
  | 16 => some .w16
  | 32 => some .w32
  | 64 => some .w64
  | _ => none

/-- A configuration of the block (00_scope.md R4). The bounds are carried as a proof, so that a configuration outside
them cannot be built (92_eei_decisions.md D2: it is refused). -/
structure Config where
  /-- The limb width `W`. -/
  limbWidth : LimbWidth
  /-- The limb count `N`. -/
  limbCount : Nat
  /-- `BLOCKBASE`, the platform address of the block (20_memory.md R51). -/
  blockBase : Nat
  /-- `N >= 1`, and `B = W*N` is a multiple of 32 with `32 <= B <= 32768`. -/
  valid : 1 ≤ limbCount ∧ limbWidth.bits * limbCount % 32 = 0 ∧
    32 ≤ limbWidth.bits * limbCount ∧ limbWidth.bits * limbCount ≤ 32768
deriving DecidableEq, Repr

/-- `W`, the limb width in bits. -/
def Config.W (c : Config) : Nat := c.limbWidth.bits

/-- `N`, the limb count. -/
def Config.N (c : Config) : Nat := c.limbCount

/-- `B = W * N`, the total width in bits (00_scope.md R4). -/
def Config.B (c : Config) : Nat := c.W * c.N

/-- A B-bit unsigned value: every value the block holds (00_scope.md R5). -/
abbrev Config.Value (c : Config) := BitVec c.B

/-- The configuration with the given `W`, `N` and `BLOCKBASE`, refused outside the bounds of 00_scope.md R4. -/
def Config.make? (w n base : Nat) : Option Config :=
  match LimbWidth.ofBits? w with
  | none => none
  | some lw =>
    if h : 1 ≤ n ∧ lw.bits * n % 32 = 0 ∧ 32 ≤ lw.bits * n ∧ lw.bits * n ≤ 32768 then
      some ⟨lw, n, base, h⟩
    else none

/-- The configuration of `State.reset`: W = 32, N = 2, the one the spec's own examples use (41_move_compare.md), at
platform address 0. DESIGN CHOICE, log 1: W, N and BLOCKBASE are open. -/
def Config.example32x2 : Config := ⟨.w32, 2, 0, by decide⟩

end Sys2Proof
end

