-- ==== Sys2Proof/Machine/State.lean ====
section
/-! DEFINITION. The state of the machine: the block (10_state.md), its configuration, its reset input, and the
interleaving of host accesses and engine turns still to come (20_memory.md R62). -/

namespace Sys2Proof.Machine

/-- The error codes of 60_exceptions.md R221. The reserved codes 4 to 15 are never produced, so they are no values
of the type (log 16). -/
inductive ErrCode where
  /-- 0: no error recorded. -/
  | none
  /-- 1: the command word decodes to no command. -/
  | illegal
  /-- 2: zero divisor or modulus. -/
  | divz
  /-- 3: a host write to CMD or to the register window while BUSY = 1. -/
  | overrun
deriving DecidableEq, Repr

/-- The 16 bignum registers `x[0..15]` (10_state.md R20). -/
abbrev RegFile (c : Config) := Vector c.Value nreg

/-- The command latch `CUR` (10_state.md R34). -/
structure Latch (c : Config) where
  /-- `CUR.w`, the accepted command word. -/
  word : Word
  /-- `CUR.s[0..15]`, the registers as they were at acceptance. -/
  snap : RegFile c
deriving DecidableEq, Repr

/-- The state of the block of configuration `c`: the summary table of 10_state.md. -/
structure Block (c : Config) where
  /-- `x[0..15]` (10_state.md R20). -/
  x : RegFile c
  /-- STATUS.BUSY (10_state.md R23). -/
  busy : Bool
  /-- STATUS.DONE (10_state.md R23). -/
  done : Bool
  /-- STATUS.ERR (10_state.md R23). -/
  err : Bool
  /-- STATUS.EQ (10_state.md R25). -/
  eq : Bool
  /-- STATUS.LT (10_state.md R25). -/
  lt : Bool
  /-- STATUS.GT (10_state.md R25). -/
  gt : Bool
  /-- STATUS.Z (10_state.md R26). -/
  z : Bool
  /-- STATUS.ERRCODE (10_state.md R28). -/
  errCode : ErrCode
  /-- CTRL.IE (10_state.md R29). -/
  ie : Bool
  /-- ERRCMD (10_state.md R32). -/
  errCmd : Word
  /-- `CUR`, `none` while it is invalid (10_state.md R34). -/
  cur : Option (Latch c)
deriving DecidableEq, Repr

/-- The reset values of 70_reset_and_hazards.md R251. -/
def Block.reset (c : Config) : Block c where
  x := Vector.replicate nreg 0
  busy := false
  done := false
  err := false
  eq := false
  lt := false
  gt := false
  z := false
  errCode := .none
  ie := false
  errCmd := 0
  cur := none

/-- What happens next, from outside the engine's own computation (20_memory.md R50, R62; 70_reset_and_hazards.md
R250). An access carries a platform address and its size in bytes; a write's `data` are the 32 data lanes, used by a
32-bit access alone (log 9). -/
inductive Event where
  /-- A host read. -/
  | read (addr size : Nat)
  /-- A host write. -/
  | write (addr size : Nat) (data : Word)
  /-- The engine's turn: the latency of a running command has elapsed (20_memory.md R59). -/
  | engine
  /-- The reset input takes this level; `true` is asserted. -/
  | resetPin (asserted : Bool)
deriving DecidableEq, Repr

/-- The answer a host access gets. -/
inductive Response where
  /-- A read's 32 data bits. -/
  | data (v : Word)
  /-- A write was taken in, ignored, discarded or rejected: the bus carries no difference (20_memory.md R53, R57, R58). -/
  | written
  /-- The bus error of 20_memory.md R52: no data, no state change. -/
  | busError
  /-- The address is not the block's: the platform decides what answers (20_memory.md R51; log 7). -/
  | elsewhere
deriving DecidableEq, Repr

/-- Reasons for the machine to stop with a fault. There are none: the block records errors and goes on
(60_exceptions.md R220), and a bus error is a response (20_memory.md R52; log 6). -/
inductive Fault where
deriving DecidableEq, Repr

/-- Reasons to refuse a step. -/
inductive Refusal where
  /-- Raised by `exec` alone, for a command that has no meaning yet. Safe: nothing can be claimed of what it does. -/
  | notModelled (mnemonic : String)
  /-- Raised by a host access to the block while reset is asserted, which the platform must not issue and a model
  refuses (70_reset_and_hazards.md R250, NO_ACCESS_IN_RESET). Safe: no claim covers such an access. -/
  | accessInReset
deriving DecidableEq, Repr

/-- The machine. `schedule` and `response` are the model's own (logs 2, 5). -/
structure State where
  /-- The configuration, which nothing changes (10_state.md R36). -/
  cfg : Config
  /-- The block. -/
  blk : Block cfg
  /-- The level of the reset input; `true` is asserted (70_reset_and_hazards.md R250). -/
  inReset : Bool
  /-- The interleaving of accesses, engine turns and reset levels still to come, the next one first (20_memory.md R62). -/
  schedule : List Event
  /-- The answer to the latest host access. -/
  response : Option Response
deriving DecidableEq, Repr

/-- The machine of configuration `c` right after the release of reset (70_reset_and_hazards.md R251, R254), with
nothing scheduled. -/
def State.resetOf (c : Config) : State where
  cfg := c
  blk := Block.reset c
  inReset := false
  schedule := []
  response := none

/-- The machine right after reset, in the configuration of the spec's examples (DESIGN CHOICE, log 1). -/
def State.reset : State := State.resetOf Config.example32x2

/-- How a step of this machine can end. -/
abbrev Result := Host.Outcome State Fault Refusal

end Sys2Proof.Machine
end

