-- ==== Sys2Proof/Machine/Limbs.lean ====
section
/-! DEFINITION. The limb view of a B-bit value (00_scope.md R6) and its 32-bit bus words and bytes (20_memory.md R55). -/

namespace Sys2Proof.Machine

/-- `limb(v, j) = v[W*j + W - 1 : W*j]`, as an exact natural (00_scope.md R6). -/
def limb {c : Config} (v : c.Value) (j : Nat) : Nat := (v.extractLsb' (c.W * j) c.W).toNat

/-- The limb indices `0` to `N-1`, the least significant first. -/
def limbIndices (c : Config) : List Nat := List.range c.N

/-- The `N` limbs of a value, the least significant first. -/
def limbs {c : Config} (v : c.Value) : List Nat := (limbIndices c).map (limb v)

/-- The number whose limbs of `w` bits are listed, the least significant first: `sum over j of limb j * 2^(w*j)`. -/
def joinLimbs (w : Nat) : List Nat → Nat
  | [] => 0
  | l :: ls => l + 2 ^ w * joinLimbs w ls

/-- The B-bit value with the given limbs (00_scope.md R6). -/
def ofLimbs {c : Config} (ls : List Nat) : c.Value := BitVec.ofNat c.B (joinLimbs c.W ls)

/-- Bus word `k` of a value, `v[32k+31 : 32k]` (20_memory.md R55). -/
def getWord {n : Nat} (v : BitVec n) (k : Nat) : Word := v.extractLsb' (32 * k) 32

/-- A value with its bus word `k` replaced (20_memory.md R57). -/
def setWord {n : Nat} (v : BitVec n) (k : Nat) (d : Word) : BitVec n :=
  v &&& ~~~((BitVec.allOnes 32).setWidth n <<< (32 * k)) ||| d.setWidth n <<< (32 * k)

/-- Byte `i` of a value, `v[8i+7 : 8i]` (20_memory.md R55). -/
def getByte {n : Nat} (v : BitVec n) (i : Nat) : Byte := v.extractLsb' (8 * i) 8

/-- `f v`, by way of the number `v` is: the same value (`strictly_eq`), in a form whose evaluation computes `v` before
it goes on, so that a long loop runs in Lean's kernel without piling up unevaluated terms. -/
def strictly {n : Nat} {α : Type} (v : BitVec n) (f : BitVec n → α) : α :=
  match v.toNat with
  | 0 => f (BitVec.ofNat n 0)
  | m + 1 => f (BitVec.ofNat n (m + 1))

end Sys2Proof.Machine
end

