-- ==== Sys2Proof/Machine/Flags.lean ====
section
/-! DEFINITION. The flags EQ, LT, GT and Z: what computes them and who writes them (10_state.md R25, R26;
41_move_compare.md R102, R103). No other flag exists (10_state.md R27). -/

namespace Sys2Proof.Machine

/-- The comparator over the limbs below `j`, from the top one down: the first unequal limb decides (R102). -/
def compareBelow {c : Config} (a b : c.Value) : Nat → Ordering
  | 0 => .eq
  | j + 1 =>
    if limb a j = limb b j then compareBelow a b j
    else if limb a j < limb b j then .lt
    else .gt

/-- The comparator over all N limbs (R102). -/
def compareLimbs {c : Config} (a b : c.Value) : Ordering := compareBelow a b c.N

/-- `isZero`: every one of the N limbs is 0 (R103). -/
def isZeroLimbs {c : Config} (a : c.Value) : Bool := (limbs a).all (· == 0)

/-- The flag writes a command commits with: none, CMP's three flags, or TST's one. -/
inductive FlagWrite where
  | none
  | compare (o : Ordering)
  | zero (z : Bool)
deriving DecidableEq, Repr

/-- CMP writes EQ, LT and GT, exactly one of them 1, and not Z; TST writes Z alone (R102, R103). -/
def Block.applyFlags {c : Config} (b : Block c) : FlagWrite → Block c
  | .none => b
  | .compare o => { b with eq := o == .eq, lt := o == .lt, gt := o == .gt }
  | .zero z => { b with z := z }

end Sys2Proof.Machine
end

