-- ==== Sys2Proof/Machine/Operands.lean ====
section
/-! DEFINITION. Operand forms (30_encoding.md R72): a whole register, and the zero-extended 16-bit immediate as a
value (LI) or as a bit count (LSHI, RSHI). -/

namespace Sys2Proof.Machine

/-- The value of a register in a register file. -/
def readReg {c : Config} (x : RegFile c) (r : Reg) : c.Value := x[r.val]

/-- The committed value of register `r`. -/
def Block.reg {c : Config} (b : Block c) (r : Reg) : c.Value := readReg b.x r

/-- A register operand of the running command: `CUR.s[r]`, the snapshot taken at acceptance (20_memory.md R59). With
no command latched the live register is read; no step runs a command then (log 10). -/
def Block.operand {c : Config} (b : Block c) (r : Reg) : c.Value :=
  match b.cur with
  | some l => readReg l.snap r
  | none => b.reg r

/-- A register operand of the running command. -/
def State.operand (s : State) (r : Reg) : s.cfg.Value := s.blk.operand r

/-- A register shift count: the whole B-bit value as an unbounded natural (30_encoding.md R72). -/
def State.countOperand (s : State) (r : Reg) : Nat := (s.operand r).toNat

/-- The immediate as a value, `zext_B(imm16)` (30_encoding.md R72). -/
def immValue (c : Config) (imm : BitVec 16) : c.Value := imm.setWidth c.B

/-- The immediate as a bit count, 0 to 65535 (30_encoding.md R72). -/
def immCount (imm : BitVec 16) : Nat := imm.toNat

/-- `CUR.w`, the word an error of the running command records; 0 with no command latched (log 10). -/
def Block.curWord {c : Config} (b : Block c) : Word :=
  match b.cur with
  | some l => l.word
  | none => 0

end Sys2Proof.Machine
end

