-- ==== Sys2Proof/Machine/Ops.lean ====
section
/-! DEFINITION. The shared operations on the block: register writes, acceptance, commit, error entry (the one way an
error is taken) and error return beside it, and the interrupt line. -/

namespace Sys2Proof.Machine

/-! ## Registers -/

/-- `x[r] <- v`. No register is hardwired (10_state.md R20). -/
def writeReg {c : Config} (x : RegFile c) (r : Reg) (v : c.Value) : RegFile c := x.set r.val v

/-- A command's register writes, in the order its rule lists them (20_memory.md R59). -/
def writeRegs {c : Config} (x : RegFile c) (ws : List (Reg × c.Value)) : RegFile c :=
  ws.foldl (fun x w => writeReg x w.1 w.2) x

/-! ## Errors (60_exceptions.md) -/

/-- Error entry, the record: the first unacknowledged error is kept (60_exceptions.md R225). -/
def Block.recordError {c : Config} (b : Block c) (code : ErrCode) (word : Word) : Block c :=
  if b.err then b else { b with err := true, errCode := code, errCmd := word }

/-- Error return, CTRL.ERRCLR (60_exceptions.md R227). -/
def Block.clearError {c : Config} (b : Block c) : Block c :=
  { b with err := false, errCode := .none, errCmd := 0 }

/-- CTRL.DONECLR (60_exceptions.md R228). -/
def Block.clearDone {c : Config} (b : Block c) : Block c := { b with done := false }

/-! ## The life of a command (20_memory.md R58, R59) -/

/-- Acceptance: latch the word, snapshot the registers (20_memory.md R58). -/
def Block.accept {c : Config} (b : Block c) (word : Word) : Block c :=
  { b with busy := true, done := false, cur := some ⟨word, b.x⟩ }

/-- The end every commit shares, with or without an error (20_memory.md R59). -/
def Block.endCommand {c : Config} (b : Block c) : Block c := { b with busy := false, done := true, cur := none }

/-- The commit of a command whose `Exec` gave `Ok(writes, flagwrites)` (20_memory.md R59). -/
def Block.commitOk {c : Config} (b : Block c) (ws : List (Reg × c.Value)) (fl : FlagWrite) : Block c :=
  ({ b with x := writeRegs b.x ws }.applyFlags fl).endCommand

/-- The commit of a command whose `Exec` gave `Error(code)`: error entry with `CUR.w`, no register and no flag
written (20_memory.md R59, 60_exceptions.md R225). -/
def Block.commitError {c : Config} (b : Block c) (code : ErrCode) : Block c :=
  (b.recordError code b.curWord).endCommand

/-- The machine with another block state of the same configuration. -/
def State.withBlk (s : State) (b : Block s.cfg) : State := { s with blk := b }

/-- A command ends normally. -/
def State.commit (s : State) (ws : List (Reg × s.cfg.Value)) (fl : FlagWrite) : Result :=
  .next (s.withBlk (s.blk.commitOk ws fl))

/-- A command ends with an error: `raise code` of the spec's pseudocode. -/
def State.raise (s : State) (code : ErrCode) : Result := .next (s.withBlk (s.blk.commitError code))

/-- The interrupt output `irq`, a level: `CTRL.IE & (STATUS.DONE | STATUS.ERR)` (60_exceptions.md R229). -/
def Block.irq {c : Config} (b : Block c) : Bool := b.ie && (b.done || b.err)

end Sys2Proof.Machine
end

