-- ==== Sys2Proof/Machine/AddSub.lean ====
section
/-! DEFINITION. The adder with its carry chain and the subtractor with its borrow chain (42_add_sub.md): ADD, SUB,
INC, DEC. -/

namespace Sys2Proof.Machine

/-- The carry chain of R120 over the limbs still to come, given the carry into the first of them; the carry out of the
last is discarded. -/
def addChain (w : Nat) : List Nat → List Nat → Nat → List Nat
  | a :: as, b :: bs, carry => (a + b + carry) % 2 ^ w :: addChain w as bs ((a + b + carry) / 2 ^ w)
  | _, _, _ => []

/-- One limb of the borrow chain of R121: the limb and the borrow out, from the exact difference `t`. -/
def borrowLimb (w : Nat) (t : Int) : Nat × Nat := if t < 0 then ((t + 2 ^ w).toNat, 1) else (t.toNat, 0)

/-- The borrow chain of R121; the borrow out of the last limb is discarded. -/
def subChain (w : Nat) : List Nat → List Nat → Nat → List Nat
  | a :: as, b :: bs, borrow =>
    (borrowLimb w ((a : Int) - b - borrow)).1 :: subChain w as bs (borrowLimb w ((a : Int) - b - borrow)).2
  | _, _, _ => []

/-- The carry chain of R122: one operand, the carry alone added. -/
def incChain (w : Nat) : List Nat → Nat → List Nat
  | a :: as, carry => (a + carry) % 2 ^ w :: incChain w as ((a + carry) / 2 ^ w)
  | [], _ => []

/-- The borrow chain of R123: one operand, the borrow alone subtracted. -/
def decChain (w : Nat) : List Nat → Nat → List Nat
  | a :: as, borrow =>
    (borrowLimb w ((a : Int) - borrow)).1 :: decChain w as (borrowLimb w ((a : Int) - borrow)).2
  | [], _ => []

/-- The adder of R120. -/
def addLimbs {c : Config} (a b : c.Value) : c.Value := ofLimbs (addChain c.W (limbs a) (limbs b) 0)

/-- The subtractor of R121. -/
def subLimbs {c : Config} (a b : c.Value) : c.Value := ofLimbs (subChain c.W (limbs a) (limbs b) 0)

/-- The increment of R122, carry-in 1. -/
def incLimbs {c : Config} (a : c.Value) : c.Value := ofLimbs (incChain c.W (limbs a) 1)

/-- The decrement of R123, borrow-in 1. -/
def decLimbs {c : Config} (a : c.Value) : c.Value := ofLimbs (decChain c.W (limbs a) 1)

/-- ADD (R120). -/
def execAdd (d a b : Reg) (s : State) : Result := s.commit [(d, addLimbs (s.operand a) (s.operand b))] .none

/-- SUB (R121). -/
def execSub (d a b : Reg) (s : State) : Result := s.commit [(d, subLimbs (s.operand a) (s.operand b))] .none

/-- INC (R122). -/
def execInc (d : Reg) (s : State) : Result := s.commit [(d, incLimbs (s.operand d))] .none

/-- DEC (R123). -/
def execDec (d : Reg) (s : State) : Result := s.commit [(d, decLimbs (s.operand d))] .none

end Sys2Proof.Machine
end

