-- ==== Sys2Proof/Machine/Bitwise.lean ====
section
/-! DEFINITION. The bitwise commands over all N limbs (45_bitwise.md): AND, OR, XOR. -/

namespace Sys2Proof.Machine

/-- A bitwise operation applied limb by limb to every one of the N limbs (R170 to R172). -/
def limbwise {c : Config} (op : Nat → Nat → Nat) (a b : c.Value) : c.Value :=
  ofLimbs (List.zipWith op (limbs a) (limbs b))

/-- AND (R170). -/
def execAnd (d a b : Reg) (s : State) : Result :=
  s.commit [(d, limbwise (· &&& ·) (s.operand a) (s.operand b))] .none

/-- OR (R171). -/
def execOr (d a b : Reg) (s : State) : Result :=
  s.commit [(d, limbwise (· ||| ·) (s.operand a) (s.operand b))] .none

/-- XOR (R172). -/
def execXor (d a b : Reg) (s : State) : Result :=
  s.commit [(d, limbwise (· ^^^ ·) (s.operand a) (s.operand b))] .none

end Sys2Proof.Machine
end

