-- ==== Sys2Proof/Machine/Divide.lean ====
section
/-! DEFINITION. The binary long-division engine (44_divide.md): DIV, MOD, DIVMOD. -/

namespace Sys2Proof.Machine

/-- The engine's working storage: the quotient, and the running remainder one bit wider (R150; 90_conflicts.md C3). -/
abbrev DivState (n : Nat) := BitVec n × BitVec (n + 1)

/-- The running remainder shifted left with bit `i` of the dividend brought in. -/
def bringIn {n : Nat} (a : BitVec n) (i : Nat) (rem : BitVec (n + 1)) : BitVec (n + 1) :=
  rem <<< 1 ||| (BitVec.ofBool (a.getLsbD i)).setWidth (n + 1)

/-- One iteration of R150, for bit `i`. -/
def divIteration {n : Nat} (a b : BitVec n) (i : Nat) (st : DivState n) : DivState n :=
  if b.setWidth (n + 1) ≤ bringIn a i st.2 then
    (st.1 ||| BitVec.twoPow n i, bringIn a i st.2 - b.setWidth (n + 1))
  else (st.1, bringIn a i st.2)

/-- The iterations for bits `i-1` down to 0. -/
def divLoop {n : Nat} (a b : BitVec n) : Nat → DivState n → DivState n
  | 0, st => st
  | i + 1, st => divLoop a b i (divIteration a b i st)

/-- `LongDiv(a, b)` of R150: exactly B iterations; the quotient and the remainder. -/
def longDiv {n : Nat} (a b : BitVec n) : BitVec n × BitVec n :=
  ((divLoop a b n (0, 0)).1, (divLoop a b n (0, 0)).2.setWidth n)

/-- DIV (R151). -/
def execDiv (d a b : Reg) (s : State) : Result :=
  if s.operand b = 0 then s.raise .divz
  else s.commit [(d, (longDiv (s.operand a) (s.operand b)).1)] .none

/-- MOD (R152). -/
def execMod (d a b : Reg) (s : State) : Result :=
  if s.operand b = 0 then s.raise .divz
  else s.commit [(d, (longDiv (s.operand a) (s.operand b)).2)] .none

/-- DIVMOD (R153): ILLEGAL on equal destinations comes before DIVZ (60_exceptions.md R230). The decoder refuses such
a word already, so a step meets that case there (log 17). -/
def execDivmod (q r a b : Reg) (s : State) : Result :=
  if q = r then s.raise .illegal
  else if s.operand b = 0 then s.raise .divz
  else s.commit [(q, (longDiv (s.operand a) (s.operand b)).1), (r, (longDiv (s.operand a) (s.operand b)).2)] .none

end Sys2Proof.Machine
end

