-- ==== Sys2Proof/Machine/Mul.lean ====
section
/-! DEFINITION. The schoolbook multiplier (43_mul.md): MUL. -/

namespace Sys2Proof.Machine

/-- One limb product of R140, shifted to its place and added into the accumulator. -/
def addProduct {c : Config} (a b : c.Value) (i : Nat) (acc : BitVec (2 * c.B)) (j : Nat) : BitVec (2 * c.B) :=
  acc + BitVec.ofNat (2 * c.B) ((limb a i * limb b j) <<< (c.W * (i + j)))

/-- The 2B-bit accumulator of R140 after all N² limb products. -/
def mulAccumulator {c : Config} (a b : c.Value) : BitVec (2 * c.B) :=
  (limbIndices c).foldl (fun acc i => (limbIndices c).foldl (addProduct a b i) acc) 0

/-- `Mul(a, b)`: the low B bits of the accumulator (R140). -/
def mulLimbs {c : Config} (a b : c.Value) : c.Value := (mulAccumulator a b).setWidth c.B

/-- MUL (R140). -/
def execMul (d a b : Reg) (s : State) : Result := s.commit [(d, mulLimbs (s.operand a) (s.operand b))] .none

end Sys2Proof.Machine
end

