-- ==== Sys2Proof/Machine/Exp.lean ====
section
/-! DEFINITION. The exponentiation pipe (47_exp.md): POW, POWMOD. -/

namespace Sys2Proof.Machine

/-- One iteration of R200, for bit `i` of the exponent: square, then multiply by the base if the bit is 1. -/
def powIteration {c : Config} (base e : c.Value) (i : Nat) (r : c.Value) : c.Value :=
  if e.getLsbD i then mulLimbs (mulLimbs r r) base else mulLimbs r r

/-- The iterations of R200 for exponent bits `i-1` down to 0. -/
def powLoop {c : Config} (base e : c.Value) : Nat → c.Value → c.Value
  | 0, r => r
  | i + 1, r => strictly (powIteration base e i r) (powLoop base e i)

/-- `PowTrunc(base, e)` of R200: exactly B iterations from 1. -/
def powTrunc {c : Config} (base e : c.Value) : c.Value := powLoop base e c.B 1

/-- The truncating product of R202, reduced at once by the long-division engine. -/
def mulMod {c : Config} (a b m : c.Value) : c.Value := strictly (mulLimbs a b) fun p => (longDiv p m).2

/-- One iteration of R202, for bit `i` of the exponent; `a` is the reduced base. -/
def powModIteration {c : Config} (a e m : c.Value) (i : Nat) (r : c.Value) : c.Value :=
  if e.getLsbD i then mulMod (mulMod r r m) a m else mulMod r r m

/-- The iterations of R202 for exponent bits `i-1` down to 0. -/
def powModLoop {c : Config} (a e m : c.Value) : Nat → c.Value → c.Value
  | 0, r => r
  | i + 1, r => strictly (powModIteration a e m i r) (powModLoop a e m i)

/-- `PowModTrunc(base, e, m)` of R202: the base reduced once, exactly B iterations from `1 mod m`. -/
def powModTrunc {c : Config} (base e m : c.Value) : c.Value :=
  strictly (longDiv base m).2 fun a => powModLoop a e m c.B (longDiv 1 m).2

/-- POW (R201). -/
def execPow (d b e : Reg) (s : State) : Result := s.commit [(d, powTrunc (s.operand b) (s.operand e))] .none

/-- POWMOD (R203). -/
def execPowmod (d b e m : Reg) (s : State) : Result :=
  if s.operand m = 0 then s.raise .divz
  else s.commit [(d, powModTrunc (s.operand b) (s.operand e) (s.operand m))] .none

end Sys2Proof.Machine
end

