-- ==== Sys2Proof/Machine/MoveCompare.lean ====
section
/-! DEFINITION. Register move, small constant, comparator and zero test (41_move_compare.md): MOV, LI, CMP, TST. -/

namespace Sys2Proof.Machine

/-- MOV (R100). -/
def execMov (d a : Reg) (s : State) : Result := s.commit [(d, s.operand a)] .none

/-- LI (R101). -/
def execLi (d : Reg) (imm : BitVec 16) (s : State) : Result := s.commit [(d, immValue s.cfg imm)] .none

/-- CMP (R102). -/
def execCmp (a b : Reg) (s : State) : Result := s.commit [] (.compare (compareLimbs (s.operand a) (s.operand b)))

/-- TST (R103). -/
def execTst (a : Reg) (s : State) : Result := s.commit [] (.zero (isZeroLimbs (s.operand a)))

end Sys2Proof.Machine
end

