-- ==== Sys2Proof/Machine/Shift.lean ====
section
/-! DEFINITION. The barrel shifter (46_shift.md): LSH, RSH, LSHI, RSHI. -/

namespace Sys2Proof.Machine

/-- The limb `wo` places below limb `j`, 0 below limb 0. -/
def limbBelow {c : Config} (v : c.Value) (j wo : Nat) : Nat := if wo ≤ j then limb v (j - wo) else 0

/-- The limb `wo` places above limb `j`, 0 from limb N up. -/
def limbAbove {c : Config} (v : c.Value) (j wo : Nat) : Nat := if j + wo < c.N then limb v (j + wo) else 0

/-- Limb `j` of a left shift by `wo` limbs and `bo` bits, from two adjacent input limbs (R180). -/
def shiftLeftLimb {c : Config} (v : c.Value) (wo bo j : Nat) : Nat :=
  (limbBelow v j wo <<< bo ||| if bo = 0 then 0 else limbBelow v j (wo + 1) >>> (c.W - bo)) % 2 ^ c.W

/-- Limb `j` of a right shift by `wo` limbs and `bo` bits, from two adjacent input limbs (R180). -/
def shiftRightLimb {c : Config} (v : c.Value) (wo bo j : Nat) : Nat :=
  (limbAbove v j wo >>> bo ||| if bo = 0 then 0 else limbAbove v j (wo + 1) <<< (c.W - bo)) % 2 ^ c.W

/-- `ShiftLeft(v, k)` of R180. -/
def shiftLeft {c : Config} (v : c.Value) (k : Nat) : c.Value :=
  if c.B ≤ k then 0 else ofLimbs ((limbIndices c).map (shiftLeftLimb v (k / c.W) (k % c.W)))

/-- `ShiftRight(v, k)` of R180. -/
def shiftRight {c : Config} (v : c.Value) (k : Nat) : c.Value :=
  if c.B ≤ k then 0 else ofLimbs ((limbIndices c).map (shiftRightLimb v (k / c.W) (k % c.W)))

/-- LSH (R181). -/
def execLsh (d a k : Reg) (s : State) : Result := s.commit [(d, shiftLeft (s.operand a) (s.countOperand k))] .none

/-- RSH (R182). -/
def execRsh (d a k : Reg) (s : State) : Result := s.commit [(d, shiftRight (s.operand a) (s.countOperand k))] .none

/-- LSHI (R183). -/
def execLshi (d a : Reg) (imm : BitVec 16) (s : State) : Result :=
  s.commit [(d, shiftLeft (s.operand a) (immCount imm))] .none

/-- RSHI (R184). -/
def execRshi (d a : Reg) (imm : BitVec 16) (s : State) : Result :=
  s.commit [(d, shiftRight (s.operand a) (immCount imm))] .none

end Sys2Proof.Machine
end

