-- ==== Sys2Proof/Machine/Dispatch.lean ====
section
/-! DEFINITION. The meaning of each command: the commit of an accepted word that decodes to it (20_memory.md R59). -/

namespace Sys2Proof.Machine

def exec (i : Instr) (s : State) : Host.Outcome State Fault Refusal :=
  match i with
  | .add d a b => Sys2Proof.Machine.execAdd d a b s
  | .sub d a b => Sys2Proof.Machine.execSub d a b s
  | .inc d => Sys2Proof.Machine.execInc d s
  | .dec d => Sys2Proof.Machine.execDec d s
  | .mul d a b => Sys2Proof.Machine.execMul d a b s
  | .div d a b => Sys2Proof.Machine.execDiv d a b s
  | .mod d a b => Sys2Proof.Machine.execMod d a b s
  | .divmod q r a b => Sys2Proof.Machine.execDivmod q r a b s
  | .and d a b => Sys2Proof.Machine.execAnd d a b s
  | .or d a b => Sys2Proof.Machine.execOr d a b s
  | .xor d a b => Sys2Proof.Machine.execXor d a b s
  | .lsh d a k => Sys2Proof.Machine.execLsh d a k s
  | .rsh d a k => Sys2Proof.Machine.execRsh d a k s
  | .lshi d a imm => Sys2Proof.Machine.execLshi d a imm s
  | .rshi d a imm => Sys2Proof.Machine.execRshi d a imm s
  | .pow d b e => Sys2Proof.Machine.execPow d b e s
  | .powmod d b e m => Sys2Proof.Machine.execPowmod d b e m s
  | .cmp a b => Sys2Proof.Machine.execCmp a b s
  | .tst a => Sys2Proof.Machine.execTst a s
  | .mov d a => Sys2Proof.Machine.execMov d a s
  | .li d imm => Sys2Proof.Machine.execLi d imm s

end Sys2Proof.Machine
end

