-- ==== Sys2Proof/Machine/Engine.lean ====
section
/-! DEFINITION. The engine's turn (20_memory.md R50, R59): the commit of the latched command. -/

namespace Sys2Proof.Machine

/-- The commit of a latched word: `Exec` decodes first, and a word that is no command raises ILLEGAL
(30_encoding.md R74, 60_exceptions.md R222). -/
def State.runWord (s : State) (word : Word) : Result :=
  match decode word with
  | .ok i => exec i s
  | .error _ => s.raise .illegal

/-- The engine's turn: it commits the running command, and does nothing when none is running (20_memory.md R50; log 4).
While reset is asserted the block holds its reset values (70_reset_and_hazards.md R250). -/
def State.engineTurn (s : State) : Result :=
  if s.inReset then .next (s.withBlk (Block.reset s.cfg))
  else
    match s.blk.busy, s.blk.cur with
    | true, some l => s.runWord l.word
    | true, none => .next s
    | false, _ => .next s

end Sys2Proof.Machine
end

