-- ==== Sys2Proof/Machine/HostBus.lean ====
section
/-! DEFINITION. The host's side of the block (20_memory.md): the offset map, the register window, what a read returns
and what a write does. -/

namespace Sys2Proof.Machine

/-! ## The offset map (20_memory.md R51, R54) -/

/-- The least `e` with `m <= 2^e`. -/
def ceilLog2 (m : Nat) : Nat := if m ≤ 1 then 0 else Nat.log2 (m - 1) + 1

/-- `RSTRIDE = max(4, 2^ceil(log2(B/8)))`, the bytes between registers in the window (20_memory.md R54). -/
def rstride (c : Config) : Nat := max 4 (2 ^ ceilLog2 (c.B / 8))

/-- The block offset the register window starts at (20_memory.md R51). -/
def windowBase : Nat := 0x10000

/-- What an aligned offset names (20_memory.md R51). -/
inductive Target where
  | cmd
  | status
  | ctrl
  | config
  | capbits
  | errcmd
  | reserved
  /-- Bus word `k` of `x[r]`. -/
  | window (r : Reg) (k : Nat)
deriving DecidableEq, Repr

/-- The register and the byte of it that lie `d` bytes into the window; none past a register's B/8 bytes or past `x15`
(20_memory.md R53, R54). -/
def windowPlace (c : Config) (d : Nat) : Option (Reg × Nat) :=
  if h : d / rstride c < nreg then
    if d % rstride c < c.B / 8 then some (⟨d / rstride c, h⟩, d % rstride c) else none
  else none

/-- The block offset of byte `i` of `x[r]` (20_memory.md R54). -/
def regByteOffset (c : Config) (r : Reg) (i : Nat) : Nat := windowBase + r.val * rstride c + i

/-- How far a block offset of the window (0x10000 to 0x1FFFF) lies from the window's start: its low 16 bits. -/
def windowDistance (o : Nat) : Nat := o % windowBase

/-- The target that lies `d` bytes into the window. -/
def windowTarget (c : Config) (d : Nat) : Target :=
  match windowPlace c d with
  | some (r, i) => .window r (i / 4)
  | none => .reserved

/-- The map of 20_memory.md R51, for an offset that is a multiple of 4. -/
def targetOf (c : Config) (o : BitVec 17) : Target :=
  if o = 0x00000#17 then .cmd
  else if o = 0x00004#17 then .status
  else if o = 0x00008#17 then .ctrl
  else if o = 0x0000C#17 then .config
  else if o = 0x00010#17 then .capbits
  else if o = 0x00014#17 then .errcmd
  else if o.toNat < windowBase then .reserved
  else windowTarget c (windowDistance o.toNat)

/-- The 17-bit block offset of a platform address; none outside the block (20_memory.md R51). -/
def blockOffset? (c : Config) (addr : Nat) : Option (BitVec 17) :=
  if c.blockBase ≤ addr ∧ addr < c.blockBase + 2 ^ 17 then some (BitVec.ofNat 17 (addr - c.blockBase)) else none

/-! ## Reads (20_memory.md R53, R56, R61) -/

/-- The 4 bits of an error code (60_exceptions.md R221). -/
def ErrCode.bits : ErrCode → BitVec 4
  | .none => 0#4
  | .illegal => 1#4
  | .divz => 2#4
  | .overrun => 3#4

/-- STATUS as the host reads it (10_state.md R23). -/
def Block.statusWord {c : Config} (b : Block c) : Word :=
  0#20 ++ b.errCode.bits ++ BitVec.ofBool b.z ++ BitVec.ofBool b.gt ++ BitVec.ofBool b.lt ++ BitVec.ofBool b.eq ++
    0#1 ++ BitVec.ofBool b.err ++ BitVec.ofBool b.done ++ BitVec.ofBool b.busy

/-- CTRL as the host reads it: the action bits and reserved bits read 0 (10_state.md R29). -/
def Block.ctrlWord {c : Config} (b : Block c) : Word := 0#29 ++ BitVec.ofBool b.ie ++ 0#2

/-- CONFIG: W in bits 7:0, N in 23:8, NREG in 31:24 (10_state.md R30). -/
def configWord (c : Config) : Word := BitVec.ofNat 8 nreg ++ BitVec.ofNat 16 c.N ++ BitVec.ofNat 8 c.W

/-- CAPBITS: B (10_state.md R31). -/
def capbitsWord (c : Config) : Word := BitVec.ofNat 32 c.B

/-- What an aligned 32-bit read returns. CMD and reserved offsets read 0 (20_memory.md R53). -/
def Block.readTarget {c : Config} (b : Block c) : Target → Word
  | .cmd => 0
  | .status => b.statusWord
  | .ctrl => b.ctrlWord
  | .config => configWord c
  | .capbits => capbitsWord c
  | .errcmd => b.errCmd
  | .reserved => 0
  | .window r k => getWord (b.reg r) k

/-- The byte at a block offset of the register window; 0 where no register byte lies (20_memory.md R53 to R55). -/
def Block.windowByte {c : Config} (b : Block c) (o : Nat) : Byte :=
  if windowBase ≤ o ∧ o < 2 * windowBase then
    match windowPlace c (windowDistance o) with
    | some (r, i) => getByte (b.reg r) i
    | none => 0
  else 0

/-- The byte at a block offset of the register window. -/
def State.windowByte (s : State) (o : Nat) : Byte := s.blk.windowByte o

/-! ## Writes -/

/-- A write of CMD (20_memory.md R58): discarded in the error state, OVERRUN while busy, else accepted. -/
def Block.writeCmd {c : Config} (b : Block c) (w : Word) : Block c :=
  if b.err then b
  else if b.busy then b.recordError .overrun w
  else b.accept w

/-- CTRL.ERRCLR written with the bit `on` (10_state.md R29). -/
def Block.clearErrorIf {c : Config} (b : Block c) (on : Bool) : Block c := if on then b.clearError else b

/-- CTRL.DONECLR written with the bit `on` (10_state.md R29). -/
def Block.clearDoneIf {c : Config} (b : Block c) (on : Bool) : Block c := if on then b.clearDone else b

/-- A CTRL write with an action bit set: ERRCLR or DONECLR. -/
def acknowledges (v : Word) : Bool := v.getLsbD 0 || v.getLsbD 1

/-- What a CTRL write `v` leaves in IE, which held `ie`. IE is a read/write bit, and one write may set both action bits
and change IE (10_state.md R29): bit 2 set sets it in every write, and a write with no action bit stores bit 2. An
acknowledging write with bit 2 zero leaves IE: 60_exceptions.md R227 (`does not touch ... IE`), R228 (`nothing else`) and
V-ERR-7 of 95_test_vectors.md say so, where R29 read alone would store the 0. DEDUCED, log 20. -/
def ieAfterWrite (v : Word) (ie : Bool) : Bool :=
  if acknowledges v then v.getLsbD 2 || ie else v.getLsbD 2

/-- CTRL.IE takes the value `on` (10_state.md R29). -/
def Block.setIE {c : Config} (b : Block c) (on : Bool) : Block c := { b with ie := on }

/-- A write of CTRL, at any time (10_state.md R29): the three effects of one write happen together. What it leaves in IE
is `ieAfterWrite` (DEDUCED, log 20). -/
def Block.writeCtrl {c : Config} (b : Block c) (v : Word) : Block c :=
  ((b.clearErrorIf (v.getLsbD 0)).clearDoneIf (v.getLsbD 1)).setIE (ieAfterWrite v b.ie)

/-- A write of bus word `k` of `x[r]` (20_memory.md R57): OVERRUN with ERRCMD 0 while busy, else the word lands, in the
error state too. -/
def Block.writeWindow {c : Config} (b : Block c) (r : Reg) (k : Nat) (v : Word) : Block c :=
  if b.busy then b.recordError .overrun 0
  else { b with x := writeReg b.x r (setWord (b.reg r) k v) }

/-- An aligned 32-bit write: read-only registers and reserved offsets ignore it, also while busy (20_memory.md R53;
log 8). -/
def Block.writeTarget {c : Config} (b : Block c) (v : Word) : Target → Block c
  | .cmd => b.writeCmd v
  | .ctrl => b.writeCtrl v
  | .window r k => b.writeWindow r k v
  | .status => b
  | .config => b
  | .capbits => b
  | .errcmd => b
  | .reserved => b

/-! ## Host accesses -/

/-- The one access form that gets no bus error: 32 bits at a multiple of 4 (20_memory.md R52). -/
def busAligned (size : Nat) (o : BitVec 17) : Bool := size == 4 && o.toNat % 4 == 0

/-- The response to a read at a block offset (20_memory.md R52, R56). -/
def Block.readResponse {c : Config} (b : Block c) (size : Nat) (o : BitVec 17) : Response :=
  if busAligned size o then .data (b.readTarget (targetOf c o)) else .busError

/-- The machine with the answer to its latest host access. -/
def State.answer (s : State) (r : Response) : State := { s with response := some r }

/-- A host read at a platform address. It changes nothing of the block (20_memory.md R61). -/
def State.hostRead (s : State) (addr size : Nat) : Result :=
  match blockOffset? s.cfg addr with
  | none => .next (s.answer .elsewhere)
  | some o =>
    if s.inReset then .refused .accessInReset
    else .next (s.answer (s.blk.readResponse size o))

/-- A host write at a platform address. A bus error changes nothing of the block (20_memory.md R52). -/
def State.hostWrite (s : State) (addr size : Nat) (v : Word) : Result :=
  match blockOffset? s.cfg addr with
  | none => .next (s.answer .elsewhere)
  | some o =>
    if s.inReset then .refused .accessInReset
    else if busAligned size o then
      .next ((s.withBlk (s.blk.writeTarget v (targetOf s.cfg o))).answer .written)
    else .next (s.answer .busError)

/-- The reset input takes a level (70_reset_and_hazards.md R250, R252): while it is asserted the block holds its reset
values, so a running command is abandoned. -/
def State.setResetPin (s : State) (asserted : Bool) : State :=
  if asserted || s.inReset then { s with blk := Block.reset s.cfg, inReset := asserted } else s

end Sys2Proof.Machine
end

