-- ==== Sys2Proof/Machine/Step.lean ====
section
/-! DEFINITION. One step of the machine: the next event of the schedule (20_memory.md R62). -/

namespace Sys2Proof.Machine

/-- The machine with another schedule. -/
def State.withSchedule (s : State) (es : List Event) : State := { s with schedule := es }

/-- One step. With nothing scheduled it is the engine's turn, so a running command always commits
(70_reset_and_hazards.md R263) and an idle block holds its state (60_exceptions.md R233; log 3). -/
def step (s : State) : Host.Outcome State Fault Refusal :=
  match s.schedule with
  | [] => s.engineTurn
  | .engine :: es => (s.withSchedule es).engineTurn
  | .read addr size :: es => (s.withSchedule es).hostRead addr size
  | .write addr size v :: es => (s.withSchedule es).hostWrite addr size v
  | .resetPin asserted :: es => .next ((s.withSchedule es).setResetPin asserted)

/-- `s` with the command word `w` (bits numbered as the opcode table numbers them) accepted and its commit the very next
step: the block stands as after a CMD write of that word (20_memory.md R58), the reset input is released, and the next
event is the engine's turn (log 13). -/
def State.withFetchWord (s : State) (nbits w : Nat) : State :=
  { s with
    blk := s.blk.accept (BitVec.ofNat 32 (w % 2 ^ nbits))
    inReset := false
    schedule := .engine :: s.schedule }

end Sys2Proof.Machine
end

