-- ==== Sys2Proof/Machine/Assembler.lean ====
section
/-! DEFINITION. The assembler syntax and the pseudo-instructions (30_encoding.md R77, R78). The block never sees
either: a line becomes a command word before the host writes it to CMD. -/

namespace Sys2Proof.Machine

/-! ## Pseudo-instructions (30_encoding.md R78) -/

/-- A pseudo-instruction. -/
inductive Pseudo where
  /-- `IADD xd, xb`. -/
  | iadd (d b : Reg)
  /-- `ISUB xd, xb`. -/
  | isub (d b : Reg)
  /-- `ZERO xd`. -/
  | zero (d : Reg)
  /-- `SQR xd, xa`. -/
  | sqr (d a : Reg)
deriving DecidableEq, Repr

/-- The one command a pseudo-instruction expands to. -/
def Pseudo.expand : Pseudo → Instr
  | .iadd d b => .add d d b
  | .isub d b => .sub d d b
  | .zero d => .li d 0
  | .sqr d a => .mul d a a

/-! ## Lines (30_encoding.md R77) -/

/-- An operand of an assembly line. -/
inductive AsmOperand where
  | reg (r : Reg)
  | imm (v : BitVec 16)
deriving DecidableEq, Repr

/-- What a line of assembly holds. -/
inductive AsmLine where
  /-- Nothing but a comment. -/
  | blank
  /-- A command. -/
  | command (i : Instr)
  /-- `HOST: repeat from L if Z = 0`: the host's loop back to the line labelled `L`. -/
  | repeatUnlessZero (label : Nat)
  /-- Any other `HOST:` line, its text kept as it is (DESIGN CHOICE, log 19). -/
  | host (text : List Char)
deriving DecidableEq, Repr

/-- A line of assembly with the label it may carry (DESIGN CHOICE, log 19: R77 names lines, `repeat from L`, and gives
no syntax for the name). -/
structure SourceLine where
  label : Option Nat
  content : AsmLine
deriving DecidableEq, Repr

/-- The line up to its comment, which `;` starts. -/
def stripComment (l : List Char) : List Char := l.takeWhile (· ≠ ';')

/-- A text without the spaces around it. -/
def trimSpaces (l : List Char) : List Char := ((l.dropWhile (· = ' ')).reverse.dropWhile (· = ' ')).reverse

/-- A text cut at every comma. -/
def splitCommas : List Char → List (List Char)
  | [] => [[]]
  | ch :: rest =>
    match splitCommas rest with
    | [] => [[ch]]
    | piece :: pieces => if ch = ',' then [] :: piece :: pieces else (ch :: piece) :: pieces

/-- The value of a digit in the given base. -/
def digitValue (base : Nat) (ch : Char) : Option Nat :=
  let v :=
    if '0' ≤ ch ∧ ch ≤ '9' then ch.toNat - '0'.toNat
    else if 'A' ≤ ch ∧ ch ≤ 'F' then ch.toNat - 'A'.toNat + 10
    else if 'a' ≤ ch ∧ ch ≤ 'f' then ch.toNat - 'a'.toNat + 10
    else base
  if v < base then some v else none

/-- The number a nonempty list of digits stands for. -/
def digitsValue (base : Nat) : List Char → Option Nat
  | [] => none
  | ds => ds.foldl (fun acc ch => do return (← acc) * base + (← digitValue base ch)) (some 0)

/-- A register, `x0` to `x15`. -/
def parseReg (l : List Char) : Option Reg :=
  match l with
  | 'x' :: ds =>
    match digitsValue 10 ds with
    | some n => if h : n < nreg ∧ ds.length = (if n < 10 then 1 else 2) then some ⟨n, h.1⟩ else none
    | none => none
  | _ => none

/-- An immediate, decimal or with `0x` hexadecimal, in 0 to 65535; a value outside is an assembly error. -/
def parseImm (l : List Char) : Option (BitVec 16) :=
  let value :=
    match l with
    | '0' :: 'x' :: ds => digitsValue 16 ds
    | ds => digitsValue 10 ds
  match value with
  | some n => if n ≤ 65535 then some (BitVec.ofNat 16 n) else none
  | none => none

/-- An operand. -/
def parseOperand (l : List Char) : Option AsmOperand :=
  match parseReg l with
  | some r => some (.reg r)
  | none => (parseImm l).map .imm

/-- The command with a mnemonic and its operands in the order of the assembler form (30_encoding.md R73, R78). -/
def assembleCommand (mnemonic : List Char) (ops : List AsmOperand) : Option Instr :=
  match String.ofList mnemonic, ops with
  | "ADD", [.reg d, .reg a, .reg b] => some (.add d a b)
  | "SUB", [.reg d, .reg a, .reg b] => some (.sub d a b)
  | "INC", [.reg d] => some (.inc d)
  | "DEC", [.reg d] => some (.dec d)
  | "MUL", [.reg d, .reg a, .reg b] => some (.mul d a b)
  | "DIV", [.reg d, .reg a, .reg b] => some (.div d a b)
  | "MOD", [.reg d, .reg a, .reg b] => some (.mod d a b)
  | "DIVMOD", [.reg q, .reg r, .reg a, .reg b] => some (.divmod q r a b)
  | "AND", [.reg d, .reg a, .reg b] => some (.and d a b)
  | "OR", [.reg d, .reg a, .reg b] => some (.or d a b)
  | "XOR", [.reg d, .reg a, .reg b] => some (.xor d a b)
  | "LSH", [.reg d, .reg a, .reg k] => some (.lsh d a k)
  | "RSH", [.reg d, .reg a, .reg k] => some (.rsh d a k)
  | "LSHI", [.reg d, .reg a, .imm v] => some (.lshi d a v)
  | "RSHI", [.reg d, .reg a, .imm v] => some (.rshi d a v)
  | "POW", [.reg d, .reg b, .reg e] => some (.pow d b e)
  | "POWMOD", [.reg d, .reg b, .reg e, .reg m] => some (.powmod d b e m)
  | "CMP", [.reg a, .reg b] => some (.cmp a b)
  | "TST", [.reg a] => some (.tst a)
  | "MOV", [.reg d, .reg a] => some (.mov d a)
  | "LI", [.reg d, .imm v] => some (.li d v)
  | "IADD", [.reg d, .reg b] => some (Pseudo.iadd d b).expand
  | "ISUB", [.reg d, .reg b] => some (Pseudo.isub d b).expand
  | "ZERO", [.reg d] => some (Pseudo.zero d).expand
  | "SQR", [.reg d, .reg a] => some (Pseudo.sqr d a).expand
  | _, _ => none

/-- A decimal digit. -/
def isDecimalDigit (ch : Char) : Bool := '0' ≤ ch && ch ≤ '9'

/-- A line's label, if it has one, and the rest of the line. DESIGN CHOICE, log 19: the label is a decimal number and a
colon at the start of the line, as the programs of 95_test_vectors.md number their lines. -/
def splitLabel (l : List Char) : Option Nat × List Char :=
  match digitsValue 10 (l.takeWhile isDecimalDigit), l.dropWhile isDecimalDigit with
  | some n, ':' :: rest => (some n, trimSpaces rest)
  | _, _ => (none, l)

/-- A text after a prefix, if it starts with it. -/
def afterPrefix : List Char → List Char → Option (List Char)
  | [], text => some text
  | _ :: _, [] => none
  | p :: ps, ch :: text => if p = ch then afterPrefix ps text else none

/-- The label `L` of `repeat from L if Z = 0`. -/
def parseRepeat (text : List Char) : Option Nat :=
  match afterPrefix "repeat from ".toList text with
  | some rest =>
    if rest.dropWhile isDecimalDigit = " if Z = 0".toList then digitsValue 10 (rest.takeWhile isDecimalDigit) else none
  | none => none

/-- The action a `HOST:` line gives. -/
def parseHost (text : List Char) : AsmLine :=
  match parseRepeat text with
  | some label => .repeatUnlessZero label
  | none => .host text

/-- The command line `body`: a mnemonic, a space, and operands between commas. -/
def parseCommand (body : List Char) : Option Instr :=
  match (splitCommas (body.dropWhile (· ≠ ' '))).mapM fun operand => parseOperand (trimSpaces operand) with
  | some ops => assembleCommand (body.takeWhile (· ≠ ' ')) ops
  | none => none

/-- A line without its label and its comment; `none` is an assembly error. -/
def parseContent (body : List Char) : Option AsmLine :=
  match body with
  | [] => some .blank
  | _ :: _ =>
    match afterPrefix "HOST:".toList body with
    | some text => some (parseHost (trimSpaces text))
    | none => (parseCommand body).map .command

/-- A line of assembly (30_encoding.md R77); `none` is an assembly error. The letter case, the spacing, the label's
form and the text of a `HOST:` line are DESIGN CHOICES (log 19). -/
def parseLine (l : List Char) : Option SourceLine :=
  let labelled := splitLabel (trimSpaces (stripComment l))
  (parseContent labelled.2).map fun content => ⟨labelled.1, content⟩

/-- The word a command line assembles to. -/
def assembleWord (l : List Char) : Option Word :=
  match parseLine l with
  | some ⟨_, .command i⟩ => some (encode i)
  | some ⟨_, .blank⟩ => none
  | some ⟨_, .repeatUnlessZero _⟩ => none
  | some ⟨_, .host _⟩ => none
  | none => none

end Sys2Proof.Machine
end

