-- ==== Sys2Proof/Safety.lean ====
section
/-! DEFINITION. The terms claims use: the opcode map as data, the block after a commit and after an error as the spec
words them, and the invariant of the state. Written from the spec's rules, not from the machine's own operations. -/

namespace Sys2Proof

/-! ## The opcode map (30_encoding.md R73) -/

/-- A row of the opcode map. -/
structure OpcodeRow where
  mnemonic : String
  mask : Word
  matchValue : Word
deriving DecidableEq, Repr

/-- A word has a row's fixed bits: `(w & mask) = match` (30_encoding.md R74). -/
abbrev OpcodeRow.matches (row : OpcodeRow) (w : Word) : Prop := w &&& row.mask = row.matchValue

/-- The rows 0x01 to 0x08 of 30_encoding.md R73. -/
def opcodeRowsArithmetic : List OpcodeRow :=
  [⟨"ADD", 0xFF000FFF#32, 0x01000000#32⟩, ⟨"SUB", 0xFF000FFF#32, 0x02000000#32⟩,
   ⟨"INC", 0xFF0FFFFF#32, 0x03000000#32⟩, ⟨"DEC", 0xFF0FFFFF#32, 0x04000000#32⟩,
   ⟨"MUL", 0xFF000FFF#32, 0x05000000#32⟩, ⟨"DIV", 0xFF000FFF#32, 0x06000000#32⟩,
   ⟨"MOD", 0xFF000FFF#32, 0x07000000#32⟩, ⟨"DIVMOD", 0xFF0000FF#32, 0x08000000#32⟩]

/-- The rows 0x09 to 0x0F of 30_encoding.md R73. -/
def opcodeRowsBits : List OpcodeRow :=
  [⟨"AND", 0xFF000FFF#32, 0x09000000#32⟩, ⟨"OR", 0xFF000FFF#32, 0x0A000000#32⟩,
   ⟨"XOR", 0xFF000FFF#32, 0x0B000000#32⟩, ⟨"LSH", 0xFF000FFF#32, 0x0C000000#32⟩,
   ⟨"RSH", 0xFF000FFF#32, 0x0D000000#32⟩, ⟨"LSHI", 0xFF000000#32, 0x0E000000#32⟩,
   ⟨"RSHI", 0xFF000000#32, 0x0F000000#32⟩]

/-- The rows 0x10 to 0x15 of 30_encoding.md R73. -/
def opcodeRowsRest : List OpcodeRow :=
  [⟨"POW", 0xFF000FFF#32, 0x10000000#32⟩, ⟨"POWMOD", 0xFF0000FF#32, 0x11000000#32⟩,
   ⟨"CMP", 0xFFF00FFF#32, 0x12000000#32⟩, ⟨"TST", 0xFFF0FFFF#32, 0x13000000#32⟩,
   ⟨"MOV", 0xFF00FFFF#32, 0x14000000#32⟩, ⟨"LI", 0xFF0F0000#32, 0x15000000#32⟩]

/-- The opcode map. -/
def opcodeMap : List OpcodeRow := opcodeRowsArithmetic ++ opcodeRowsBits ++ opcodeRowsRest

/-- The name of a command's row. -/
def Instr.mnemonic : Instr → String
  | .add _ _ _ => "ADD"
  | .sub _ _ _ => "SUB"
  | .inc _ => "INC"
  | .dec _ => "DEC"
  | .mul _ _ _ => "MUL"
  | .div _ _ _ => "DIV"
  | .mod _ _ _ => "MOD"
  | .divmod _ _ _ _ => "DIVMOD"
  | .and _ _ _ => "AND"
  | .or _ _ _ => "OR"
  | .xor _ _ _ => "XOR"
  | .lsh _ _ _ => "LSH"
  | .rsh _ _ _ => "RSH"
  | .lshi _ _ _ => "LSHI"
  | .rshi _ _ _ => "RSHI"
  | .pow _ _ _ => "POW"
  | .powmod _ _ _ _ => "POWMOD"
  | .cmp _ _ => "CMP"
  | .tst _ => "TST"
  | .mov _ _ => "MOV"
  | .li _ _ => "LI"

/-- A command word given by its fields as numbers: op 31:24, A 23:20, B 19:16, C 15:12, D 11:8, zero 7:0
(30_encoding.md R71). -/
def fieldsWord (op : Nat) (a b c d : Reg) : Word :=
  BitVec.ofNat 32 (op * 2 ^ 24 + a.val * 2 ^ 20 + b.val * 2 ^ 16 + c.val * 2 ^ 12 + d.val * 2 ^ 8)

/-- A command word with imm16 in bits 15:0 (30_encoding.md R71). -/
def immFieldsWord (op : Nat) (a b : Reg) (imm : BitVec 16) : Word :=
  BitVec.ofNat 32 (op * 2 ^ 24 + a.val * 2 ^ 20 + b.val * 2 ^ 16 + imm.toNat)

namespace Machine

/-! ## Commits as the spec words them -/

/-- The block after a command has committed with the register file `x'` and no flag write: nothing else changes
(20_memory.md R59, 93_implementation_defined.md I14). -/
def Block.afterCommit {c : Config} (b : Block c) (x' : RegFile c) : Block c :=
  { b with x := x', busy := false, done := true, cur := none }

/-- The block after a command has ended with an error: the first error's record is kept, no register and no flag is
written (60_exceptions.md R225). -/
def Block.afterError {c : Config} (b : Block c) (code : ErrCode) (word : Word) : Block c :=
  { b with
    busy := false
    done := true
    cur := none
    err := true
    errCode := if b.err then b.errCode else code
    errCmd := if b.err then b.errCmd else word }

/-- Byte `i` of the window belongs to register `r` (20_memory.md R54). -/
def isRegByte (c : Config) (r : Reg) (o : Nat) : Prop :=
  windowBase + r.val * rstride c ≤ o ∧ o < windowBase + r.val * rstride c + c.B / 8

/-! ## Modular exponentiation over the naturals -/

/-- One iteration of 47_exp.md R202 over the naturals, for bit `i` of the exponent: every product is truncated to
`bits` bits and reduced at once. -/
def powModNatStep (bits base e m i r : Nat) : Nat :=
  if e.testBit i then (r * r % 2 ^ bits % m) * (base % m) % 2 ^ bits % m else r * r % 2 ^ bits % m

/-- The iterations of 47_exp.md R202 for exponent bits `i-1` down to 0. -/
def powModNatLoop (bits base e m : Nat) : Nat → Nat → Nat
  | 0, r => r
  | i + 1, r => powModNatLoop bits base e m i (powModNatStep bits base e m i r)

/-- `PowModTrunc(base, e, m)` of 47_exp.md R202 over the naturals. -/
def powModNat (bits base e m : Nat) : Nat := powModNatLoop bits base e m bits (1 % m)

/-! ## The invariant -/

/-- The relations between the fields of the block: BUSY exactly while the latch is valid, and then not DONE
(10_state.md R24); the snapshot is the live register file (R34); ERRCODE is 0 and ERRCMD is 0 exactly as R23, R32 and
60_exceptions.md R227 say; at most one of EQ, LT, GT (R25). -/
abbrev Block.Coherent {c : Config} (b : Block c) : Prop :=
  (b.busy = true → b.cur.map Latch.snap = some b.x) ∧
  (b.busy = false → b.cur = none) ∧
  (b.busy = true → b.done = false) ∧
  (b.err = true ↔ b.errCode ≠ .none) ∧
  (b.err = false → b.errCmd = 0) ∧
  ((b.eq && b.lt || b.eq && b.gt || b.lt && b.gt) = false)

/-- The invariant of the machine: the block is coherent, and while reset is asserted it holds its reset values
(70_reset_and_hazards.md R250). -/
abbrev State.Inv (s : State) : Prop := s.blk.Coherent ∧ (s.inReset = true → s.blk = Block.reset s.cfg)

/-! ## Which step comes next -/

/-- The next step is the engine's turn with reset not asserted: it is scheduled, or nothing is (log 3). A running
command commits at this step and at no other (20_memory.md R59). -/
abbrev State.EngineNext (s : State) : Prop :=
  s.inReset = false ∧ (s.schedule = [] ∨ ∃ es, s.schedule = .engine :: es)

/-- Reset acts at the next step: its input is asserted, or the step asserts it (70_reset_and_hazards.md R250). -/
abbrev State.ResetActs (s : State) : Prop := s.inReset = true ∨ ∃ es, s.schedule = .resetPin true :: es

/-! ## Runs and schedules -/

/-- `k` steps of the machine, ending at the first stop. -/
def runSteps : Nat → State → Result
  | 0, s => .next s
  | k + 1, s =>
    match step s with
    | .next s' => runSteps k s'
    | .fault r => .fault r
    | .refused r => .refused r

/-- An event that is a host access. -/
def Event.isAccess : Event → Bool
  | .read _ _ => true
  | .write _ _ _ => true
  | .engine => false
  | .resetPin _ => false

/-- An event of the reset input. -/
def Event.isReset : Event → Bool
  | .resetPin _ => true
  | .read _ _ => false
  | .write _ _ _ => false
  | .engine => false

/-- A schedule in which reset does not intervene. -/
def noReset (es : List Event) : Bool := es.all fun e => !e.isReset

/-- A host read of 32 bits at a block offset. -/
def readAt (c : Config) (offset : Nat) : Event := .read (c.blockBase + offset) 4

/-- A host write of 32 bits at a block offset. -/
def writeAt (c : Config) (offset : Nat) (v : Word) : Event := .write (c.blockBase + offset) 4 v

/-- A host write of command word `w` to CMD of the block of configuration `c` (20_memory.md R51, R58). -/
def cmdWrite (c : Config) (w : Word) : Event := writeAt c 0x00000 w

end Machine

end Sys2Proof
end

