-- ==== Sys2Proof/Certificates/Slice0/Obligations.lean ====
section
/-! DEFINITION. The statements about the machine, one for each entry of OBLIGATIONS.json. They range over every
configuration: a state carries its own. -/

open Sys2Proof Sys2Proof.Machine

/-! ## Encoding -/

/-- 30_encoding.md R73: a well-formed command's word decodes to it. -/
def Obligations.DecodeOfEncodeIsTheCommand : Prop :=
  ∀ i : Instr, i.wf = true → decode (encode i) = .ok i

/-- 30_encoding.md R73, R74: a word that decodes is the word of the command it decodes to. -/
def Obligations.EncodeOfDecodeIsTheWord : Prop :=
  ∀ (w : Word) (i : Instr), decode w = .ok i → encode i = w ∧ i.wf = true

/-- 30_encoding.md R74: a word decodes exactly when a row of the map matches it (and DIVMOD's A and D differ), to a
command of that row; at most one row matches; and at the commit it runs as that command, or raises ILLEGAL. -/
def Obligations.DecodingFollowsTheOpcodeMap : Prop :=
  (∀ w : Word,
    ((∃ i, decode w = .ok i) ↔
      ∃ row ∈ opcodeMap, row.matches w ∧ (row.mnemonic = "DIVMOD" → fieldA w ≠ fieldD w)) ∧
    (∀ i, decode w = .ok i → ∃ row ∈ opcodeMap, row.matches w ∧ row.mnemonic = i.mnemonic) ∧
    (∀ row ∈ opcodeMap, ∀ row' ∈ opcodeMap, row.matches w → row'.matches w → row = row')) ∧
  ∀ (s : State) (l : Latch s.cfg), s.inReset = false → s.blk.busy = true → s.blk.cur = some l →
    (∀ i, decode l.word = .ok i → s.engineTurn = exec i s) ∧
    ((∀ i, decode l.word ≠ .ok i) → s.engineTurn = .next (s.withBlk (s.blk.afterError .illegal l.word)))

/-- 30_encoding.md R75: opcodes 0x00 and 0x16 to 0xFF are no commands, and their words raise ILLEGAL at the commit. -/
def Obligations.ReservedOpcodesAreIllegal : Prop :=
  ∀ w : Word, (opField w).toNat = 0 ∨ 0x16 ≤ (opField w).toNat →
    decode w = .error .reservedOpcode ∧
    ∀ (s : State) (l : Latch s.cfg), s.inReset = false → s.blk.busy = true → s.blk.cur = some l → l.word = w →
      s.engineTurn = .next (s.withBlk (s.blk.afterError .illegal w))

/-- 95_test_vectors.md: words written out in the spec, one of each format, decode to the commands they stand for. -/
def Obligations.WordsOfTheSpecDecode : Prop :=
  decode 0x01123000#32 = .ok (.add 1 2 3) ∧ decode 0x03100000#32 = .ok (.inc 1) ∧
  decode 0x08312400#32 = .ok (.divmod 3 4 1 2) ∧ decode 0x0E310004#32 = .ok (.lshi 3 1 4) ∧
  decode 0x11512300#32 = .ok (.powmod 5 1 2 3) ∧ decode 0x12012000#32 = .ok (.cmp 1 2) ∧
  decode 0x13020000#32 = .ok (.tst 2) ∧ decode 0x14120000#32 = .ok (.mov 1 2) ∧
  decode 0x15300CA1#32 = .ok (.li 3 3233) ∧ decode 0x01123001#32 = .error .nonzeroFixedField ∧
  decode 0x08312300#32 = .error .divmodSameDestinations ∧ decode 0x00000000#32 = .error .reservedOpcode

/-- 30_encoding.md R78: each pseudo-instruction is its one command. -/
def Obligations.PseudoInstructionsExpand : Prop :=
  ∀ (d a : Reg), (Pseudo.iadd d a).expand = .add d d a ∧ (Pseudo.isub d a).expand = .sub d d a ∧
    (Pseudo.zero d).expand = .li d 0 ∧ (Pseudo.sqr d a).expand = .mul d a a

/-! ## A step runs the latched command -/

/-- 20_memory.md R59, R62: on a scheduled engine's turn a step of a busy machine is `exec` of the command its latched
word decodes to, with the event taken off the schedule, and operands are read from the snapshot. That the step with
nothing scheduled is the engine's turn too is the model's choice (DESIGN CHOICE, log 3). -/
def Obligations.StepRunsTheLatchedCommand : Prop :=
  ∀ (s : State) (l : Latch s.cfg) (i : Instr) (es : List Event),
    s.inReset = false → s.blk.busy = true → s.blk.cur = some l → decode l.word = .ok i →
    (s.schedule = .engine :: es → step s = exec i (s.withSchedule es)) ∧
    (s.schedule = [] → step s = exec i s) ∧
    ∀ r : Reg, s.operand r = readReg l.snap r

/-- 60_exceptions.md R222: at the commit of a word that decodes to nothing, ILLEGAL is recorded with the word (the
first error is kept) and no register and no flag is written. -/
def Obligations.IllegalWordOnlyRecordsTheError : Prop :=
  ∀ (s : State) (l : Latch s.cfg) (e : DecodeError) (es : List Event),
    s.inReset = false → s.blk.busy = true → s.blk.cur = some l → decode l.word = .error e →
    s.schedule = .engine :: es →
    step s = .next ((s.withSchedule es).withBlk (s.blk.afterError .illegal l.word))

/-! ## Results. `afterCommit` is the whole next state of the block: a statement with it is the command's frame too -/

/-- 42_add_sub.md R120. -/
def Obligations.AddCommitsTheSum : Prop :=
  ∀ (s : State) (d a b : Reg),
    decode (fieldsWord 0x01 d a b 0) = .ok (.add d a b) ∧
    exec (.add d a b) s =
      .next (s.withBlk (s.blk.afterCommit (s.blk.x.set d.val (s.operand a + s.operand b))))

/-- 42_add_sub.md R121. -/
def Obligations.SubCommitsTheDifference : Prop :=
  ∀ (s : State) (d a b : Reg),
    decode (fieldsWord 0x02 d a b 0) = .ok (.sub d a b) ∧
    exec (.sub d a b) s =
      .next (s.withBlk (s.blk.afterCommit (s.blk.x.set d.val (s.operand a - s.operand b))))

/-- 42_add_sub.md R122, R123. -/
def Obligations.IncAndDecCommitPlusAndMinusOne : Prop :=
  ∀ (s : State) (d : Reg),
    decode (fieldsWord 0x03 d 0 0 0) = .ok (.inc d) ∧ decode (fieldsWord 0x04 d 0 0 0) = .ok (.dec d) ∧
    exec (.inc d) s = .next (s.withBlk (s.blk.afterCommit (s.blk.x.set d.val (s.operand d + 1#s.cfg.B)))) ∧
    exec (.dec d) s = .next (s.withBlk (s.blk.afterCommit (s.blk.x.set d.val (s.operand d - 1#s.cfg.B))))

/-- 43_mul.md R140: the accumulator ends at the exact product, and the command commits its low B bits. -/
def Obligations.MulCommitsTheLowHalfOfTheProduct : Prop :=
  (∀ (c : Config) (a b : c.Value), (mulAccumulator a b).toNat = a.toNat * b.toNat) ∧
  ∀ (s : State) (d a b : Reg),
    decode (fieldsWord 0x05 d a b 0) = .ok (.mul d a b) ∧
    exec (.mul d a b) s =
      .next (s.withBlk (s.blk.afterCommit (s.blk.x.set d.val (s.operand a * s.operand b))))

/-- 44_divide.md R150: B iterations of one-bit division are exact floor division; each keeps the running remainder below
the divisor, and bringing in a bit loses nothing in its B+1 bits. -/
def Obligations.LongDivisionIsExact : Prop :=
  ∀ (n : Nat) (a b : BitVec n), b ≠ 0 →
    (longDiv a b).1.toNat = a.toNat / b.toNat ∧ (longDiv a b).2.toNat = a.toNat % b.toNat ∧
    ∀ (i : Nat) (st : DivState n), st.2.toNat < b.toNat →
      (bringIn a i st.2).toNat = 2 * st.2.toNat + (a.getLsbD i).toNat ∧ (divIteration a b i st).2.toNat < b.toNat

/-- 44_divide.md R151, R152: the floor quotient and the remainder, or DIVZ with nothing written. -/
def Obligations.DivAndModCommitQuotientAndRemainder : Prop :=
  ∀ (s : State) (d a b : Reg),
    decode (fieldsWord 0x06 d a b 0) = .ok (.div d a b) ∧ decode (fieldsWord 0x07 d a b 0) = .ok (.mod d a b) ∧
    (s.operand b ≠ 0 →
      exec (.div d a b) s = .next (s.withBlk (s.blk.afterCommit (s.blk.x.set d.val (s.operand a / s.operand b)))) ∧
      exec (.mod d a b) s = .next (s.withBlk (s.blk.afterCommit (s.blk.x.set d.val (s.operand a % s.operand b))))) ∧
    ∀ l, s.blk.cur = some l → s.operand b = 0 →
      exec (.div d a b) s = .next (s.withBlk (s.blk.afterError .divz l.word)) ∧
      exec (.mod d a b) s = .next (s.withBlk (s.blk.afterError .divz l.word))

/-- 44_divide.md R153: both results in one commit; ILLEGAL on equal destinations, before DIVZ. -/
def Obligations.DivmodCommitsBothResults : Prop :=
  ∀ (s : State) (q r a b : Reg),
    (q ≠ r → decode (fieldsWord 0x08 q a b r) = .ok (.divmod q r a b)) ∧
    (q = r → decode (fieldsWord 0x08 q a b r) = .error .divmodSameDestinations) ∧
    (q ≠ r → s.operand b ≠ 0 →
      exec (.divmod q r a b) s =
        .next (s.withBlk (s.blk.afterCommit
          ((s.blk.x.set q.val (s.operand a / s.operand b)).set r.val (s.operand a % s.operand b))))) ∧
    ∀ l, s.blk.cur = some l →
      (q = r → exec (.divmod q r a b) s = .next (s.withBlk (s.blk.afterError .illegal l.word))) ∧
      (q ≠ r → s.operand b = 0 → exec (.divmod q r a b) s = .next (s.withBlk (s.blk.afterError .divz l.word)))

/-- 60_exceptions.md R223: DIVZ of DIV, MOD, DIVMOD with a zero divisor and of POWMOD with a zero modulus, on the
engine's turn: the record alone is written. -/
def Obligations.ZeroDivisorOnlyRecordsTheError : Prop :=
  ∀ (s : State) (l : Latch s.cfg) (i : Instr) (r : Reg) (es : List Event),
    s.inReset = false → s.blk.busy = true → s.blk.cur = some l → decode l.word = .ok i →
    i.divisor? = some r → readReg l.snap r = 0 → s.schedule = .engine :: es →
    step s = .next ((s.withSchedule es).withBlk (s.blk.afterError .divz l.word))

/-- 45_bitwise.md R170 to R172: over all B bits. -/
def Obligations.BitwiseCommandsCommitEveryBit : Prop :=
  ∀ (s : State) (d a b : Reg),
    decode (fieldsWord 0x09 d a b 0) = .ok (.and d a b) ∧ decode (fieldsWord 0x0A d a b 0) = .ok (.or d a b) ∧
    decode (fieldsWord 0x0B d a b 0) = .ok (.xor d a b) ∧
    exec (.and d a b) s =
      .next (s.withBlk (s.blk.afterCommit (s.blk.x.set d.val (s.operand a &&& s.operand b)))) ∧
    exec (.or d a b) s =
      .next (s.withBlk (s.blk.afterCommit (s.blk.x.set d.val (s.operand a ||| s.operand b)))) ∧
    exec (.xor d a b) s =
      .next (s.withBlk (s.blk.afterCommit (s.blk.x.set d.val (s.operand a ^^^ s.operand b))))

/-- 46_shift.md R180 to R182: `(v * 2^k) mod 2^B` and `v div 2^k`, the count the whole value of the count register. -/
def Obligations.RegisterShiftsCommitByTheWholeCount : Prop :=
  ∀ (s : State) (d a k : Reg),
    decode (fieldsWord 0x0C d a k 0) = .ok (.lsh d a k) ∧ decode (fieldsWord 0x0D d a k 0) = .ok (.rsh d a k) ∧
    exec (.lsh d a k) s =
      .next (s.withBlk (s.blk.afterCommit (s.blk.x.set d.val (s.operand a <<< (s.operand k).toNat)))) ∧
    exec (.rsh d a k) s =
      .next (s.withBlk (s.blk.afterCommit (s.blk.x.set d.val (s.operand a >>> (s.operand k).toNat))))

/-- 46_shift.md R180, R183, R184: the same by the immediate count. -/
def Obligations.ImmediateShiftsCommitByTheImmediate : Prop :=
  ∀ (s : State) (d a : Reg) (imm : BitVec 16),
    decode (immFieldsWord 0x0E d a imm) = .ok (.lshi d a imm) ∧
    decode (immFieldsWord 0x0F d a imm) = .ok (.rshi d a imm) ∧
    exec (.lshi d a imm) s =
      .next (s.withBlk (s.blk.afterCommit (s.blk.x.set d.val (s.operand a <<< imm.toNat)))) ∧
    exec (.rshi d a imm) s =
      .next (s.withBlk (s.blk.afterCommit (s.blk.x.set d.val (s.operand a >>> imm.toNat))))

/-- 47_exp.md R200, R201: `base^e mod 2^B`, with `0^0 = 1`. -/
def Obligations.PowCommitsThePower : Prop :=
  ∀ (s : State) (d b e : Reg),
    decode (fieldsWord 0x10 d b e 0) = .ok (.pow d b e) ∧
    exec (.pow d b e) s =
      .next (s.withBlk (s.blk.afterCommit
        (s.blk.x.set d.val (BitVec.ofNat s.cfg.B ((s.operand b).toNat ^ (s.operand e).toNat)))))

/-- 47_exp.md R202, R203: the value of the rule's own iteration, over the naturals, below the modulus; DIVZ with
nothing written on a zero modulus. -/
def Obligations.PowmodCommitsTheTruncatedIteration : Prop :=
  ∀ (s : State) (d b e m : Reg),
    decode (fieldsWord 0x11 d b e m) = .ok (.powmod d b e m) ∧
    (s.operand m ≠ 0 →
      powModNat s.cfg.B (s.operand b).toNat (s.operand e).toNat (s.operand m).toNat < (s.operand m).toNat ∧
      exec (.powmod d b e m) s =
        .next (s.withBlk (s.blk.afterCommit (s.blk.x.set d.val (BitVec.ofNat s.cfg.B
          (powModNat s.cfg.B (s.operand b).toNat (s.operand e).toNat (s.operand m).toNat)))))) ∧
    ∀ l, s.blk.cur = some l → s.operand m = 0 →
      exec (.powmod d b e m) s = .next (s.withBlk (s.blk.afterError .divz l.word))

/-- 47_exp.md R204, the exactness condition: with `(m-1)^2 < 2^B`, which is `m <= 2^(B/2)`, POWMOD commits exactly
`base^e mod m`. -/
def Obligations.PowmodIsExactUnderTheCondition : Prop :=
  (∀ (c : Config) (m : Nat), 0 < m → ((m - 1) ^ 2 < 2 ^ c.B ↔ m ≤ 2 ^ (c.B / 2))) ∧
  ∀ (s : State) (d b e m : Reg), s.operand m ≠ 0 → ((s.operand m).toNat - 1) ^ 2 < 2 ^ s.cfg.B →
    exec (.powmod d b e m) s =
      .next (s.withBlk (s.blk.afterCommit (s.blk.x.set d.val (BitVec.ofNat s.cfg.B
        ((s.operand b).toNat ^ (s.operand e).toNat % (s.operand m).toNat)))))

/-- 47_exp.md R204: the RSA law. Under the condition, POWMOD by `e` and then by `d` gives back every message `msg` below
`n` that arithmetic gives back. -/
def Obligations.PowmodRoundTripUnderTheCondition : Prop :=
  ∀ (c : Config) (msg e d n : c.Value), 0 < n.toNat → n.toNat ≤ 2 ^ (c.B / 2) →
    msg.toNat ^ (e.toNat * d.toNat) % n.toNat = msg.toNat →
    powModTrunc (powModTrunc msg e n) d n = msg

/-- 41_move_compare.md R102: exactly one of EQ, LT, GT, by unsigned magnitude; Z and every register as before. -/
def Obligations.CmpCommitsTheOrder : Prop :=
  ∀ (s : State) (a b : Reg),
    decode (fieldsWord 0x12 0 a b 0) = .ok (.cmp a b) ∧
    exec (.cmp a b) s =
      .next (s.withBlk { s.blk.afterCommit s.blk.x with
        eq := decide ((s.operand a).toNat = (s.operand b).toNat)
        lt := decide ((s.operand a).toNat < (s.operand b).toNat)
        gt := decide ((s.operand b).toNat < (s.operand a).toNat) })

/-- 41_move_compare.md R103: Z tells whether the value is 0; EQ, LT, GT and every register as before. -/
def Obligations.TstCommitsTheZeroTest : Prop :=
  ∀ (s : State) (a : Reg),
    decode (fieldsWord 0x13 0 a 0 0) = .ok (.tst a) ∧
    exec (.tst a) s = .next (s.withBlk { s.blk.afterCommit s.blk.x with z := decide ((s.operand a).toNat = 0) })

/-- 41_move_compare.md R100, R101: the copied value, and the zero-extended immediate, which is never cut. -/
def Obligations.MovAndLiCommitTheirOperand : Prop :=
  ∀ (s : State) (d a : Reg) (imm : BitVec 16),
    decode (fieldsWord 0x14 d a 0 0) = .ok (.mov d a) ∧ decode (immFieldsWord 0x15 d 0 imm) = .ok (.li d imm) ∧
    exec (.mov d a) s = .next (s.withBlk (s.blk.afterCommit (s.blk.x.set d.val (s.operand a)))) ∧
    exec (.li d imm) s =
      .next (s.withBlk (s.blk.afterCommit (s.blk.x.set d.val (BitVec.ofNat s.cfg.B imm.toNat)))) ∧
    (BitVec.ofNat s.cfg.B imm.toNat).toNat = imm.toNat

/-! ## Chains and laws -/

/-- 42_add_sub.md R120, R121: limb by limb, the adder's and the subtractor's results satisfy the carry and the borrow
recurrences, from a first carry and borrow of 0 on. -/
def Obligations.CarryAndBorrowRunThroughTheLimbs : Prop :=
  ∀ (c : Config) (a b : c.Value),
    (∃ carry : Nat → Nat, carry 0 = 0 ∧ ∀ j, j < c.N →
      carry (j + 1) ≤ 1 ∧ limb (addLimbs a b) j + 2 ^ c.W * carry (j + 1) = limb a j + limb b j + carry j) ∧
    ∃ borrow : Nat → Nat, borrow 0 = 0 ∧ ∀ j, j < c.N →
      borrow (j + 1) ≤ 1 ∧ limb (subLimbs a b) j + limb b j + borrow j = limb a j + 2 ^ c.W * borrow (j + 1)

/-- 42_add_sub.md R124: ADD and SUB, INC and DEC are inverse, ADD is commutative, adding and subtracting 1 are INC and
DEC, and for one B the limb width makes no difference. -/
def Obligations.CarryChainLaws : Prop :=
  (∀ (c : Config) (a b : c.Value),
    subLimbs (addLimbs a b) b = a ∧ addLimbs a b = addLimbs b a ∧
    decLimbs (incLimbs a) = a ∧ incLimbs (decLimbs a) = a ∧
    addLimbs a 1#c.B = incLimbs a ∧ subLimbs a 1#c.B = decLimbs a) ∧
  ∀ (c c' : Config) (a b : c.Value) (a' b' : c'.Value), c.B = c'.B → a.toNat = a'.toNat → b.toNat = b'.toNat →
    (addLimbs a b).toNat = (addLimbs a' b').toNat ∧ (subLimbs a b).toNat = (subLimbs a' b').toNat ∧
    (incLimbs a).toNat = (incLimbs a').toNat ∧ (decLimbs a).toNat = (decLimbs a').toNat

/-- 43_mul.md R141: MUL is commutative and associative and distributes over ADD, modulo 2^B. -/
def Obligations.MultiplierLaws : Prop :=
  ∀ (c : Config) (a b d : c.Value),
    mulLimbs a b = mulLimbs b a ∧ mulLimbs (mulLimbs a b) d = mulLimbs a (mulLimbs b d) ∧
    mulLimbs a (addLimbs b d) = addLimbs (mulLimbs a b) (mulLimbs a d)

/-- 44_divide.md R154: `q*b + r = a` exactly, `r < b`, and `q = 0` exactly when `a < b`. -/
def Obligations.DivisionLaws : Prop :=
  ∀ (c : Config) (a b : c.Value), b ≠ 0 →
    (longDiv a b).1.toNat * b.toNat + (longDiv a b).2.toNat = a.toNat ∧ (longDiv a b).2.toNat < b.toNat ∧
    ((longDiv a b).1 = 0 ↔ a.toNat < b.toNat)

/-- 46_shift.md R185: the round trip, `k` single-bit shifts, the power of two, and LSH against LSHI. -/
def Obligations.ShifterLaws : Prop :=
  (∀ (c : Config) (v : c.Value) (k : Nat),
    (v.toNat < 2 ^ (c.B - k) → k ≤ c.B → shiftRight (shiftLeft v k) k = v) ∧
    shiftRight v k = (fun u : c.Value => shiftRight u 1)^[k] v ∧
    shiftLeft v k = (fun u : c.Value => shiftLeft u 1)^[k] v ∧
    (k < c.B → shiftLeft v k = mulLimbs v (BitVec.ofNat c.B (2 ^ k)))) ∧
  ∀ (s : State) (d a k : Reg) (imm : BitVec 16), (s.operand k).toNat = imm.toNat →
    exec (.lsh d a k) s = exec (.lshi d a imm) s ∧ exec (.rsh d a k) s = exec (.rshi d a imm) s

/-- 47_exp.md R205: exponents add, powers of two are shifts, and under R204's condition POWMOD is POW reduced when
POW is not truncated. -/
def Obligations.ExponentiationLaws : Prop :=
  ∀ (c : Config) (a e e' m : c.Value),
    (e.toNat + e'.toNat < 2 ^ c.B → powTrunc a (e + e') = mulLimbs (powTrunc a e) (powTrunc a e')) ∧
    powTrunc 2#c.B e = shiftLeft 1#c.B e.toNat ∧
    (0 < m.toNat → m.toNat ≤ 2 ^ (c.B / 2) → a.toNat ^ e.toNat < 2 ^ c.B →
      powModTrunc a e m = (longDiv (powTrunc a e) m).2)

/-! ## Frames and whole-machine rules -/

/-- 20_memory.md R59, 93_implementation_defined.md I14: the frame of every command. When it answers a next state, every
register but its destinations, every window byte outside their bytes, IE, EQ, LT and GT unless it is CMP, Z unless it is
TST, and the error record unless it ends with an error, are as before; so is everything outside the block. -/
def Obligations.CommandsChangeOnlyWhatTheirRuleWrites : Prop :=
  ∀ (i : Instr) (s t : State), exec i s = .next t →
    t.cfg = s.cfg ∧ t.inReset = s.inReset ∧ t.schedule = s.schedule ∧ t.response = s.response ∧
    t.blk.ie = s.blk.ie ∧
    (∀ r : Reg, r ∉ i.dests → (t.blk.reg r).toNat = (s.blk.reg r).toNat) ∧
    (∀ o : Nat, (∀ r ∈ i.dests, ¬ isRegByte s.cfg r o) → t.windowByte o = s.windowByte o) ∧
    ((∀ a b, i ≠ .cmp a b) → t.blk.eq = s.blk.eq ∧ t.blk.lt = s.blk.lt ∧ t.blk.gt = s.blk.gt) ∧
    ((∀ a, i ≠ .tst a) → t.blk.z = s.blk.z) ∧
    (i.wf = true → (∀ r, i.divisor? = some r → s.operand r ≠ 0) →
      t.blk.err = s.blk.err ∧ t.blk.errCode = s.blk.errCode ∧ t.blk.errCmd = s.blk.errCmd)

/-- From 10_state.md R25, R26: over all steps, EQ, LT and GT change only at the engine's turn that commits a CMP, Z only at
the one that commits a TST, and all four by reset acting, which clears them. That turn leaves exactly one of EQ, LT, GT
1, by the order of the operands at acceptance, and Z telling whether the operand is 0. That the engine's turn also comes
with nothing scheduled is the model's choice (DESIGN CHOICE, log 3). -/
def Obligations.FlagsChangeOnlyByTheirCommand : Prop :=
  ∀ s t : State, step s = .next t →
    ((s.ResetActs ∧ t.blk.eq = false ∧ t.blk.lt = false ∧ t.blk.gt = false ∧ t.blk.z = false) ∨
      ((t.blk.eq = s.blk.eq ∧ t.blk.lt = s.blk.lt ∧ t.blk.gt = s.blk.gt) ∨
        (s.EngineNext ∧ ∃ l a b, s.blk.busy = true ∧ s.blk.cur = some l ∧ decode l.word = .ok (.cmp a b))) ∧
      (t.blk.z = s.blk.z ∨
        (s.EngineNext ∧ ∃ l a, s.blk.busy = true ∧ s.blk.cur = some l ∧ decode l.word = .ok (.tst a)))) ∧
    ∀ l : Latch s.cfg, s.EngineNext → s.blk.busy = true → s.blk.cur = some l →
      (∀ a b, decode l.word = .ok (.cmp a b) →
        t.blk.eq.toNat + t.blk.lt.toNat + t.blk.gt.toNat = 1 ∧
        t.blk.eq = decide ((readReg l.snap a).toNat = (readReg l.snap b).toNat) ∧
        t.blk.lt = decide ((readReg l.snap a).toNat < (readReg l.snap b).toNat) ∧
        t.blk.gt = decide ((readReg l.snap b).toNat < (readReg l.snap a).toNat)) ∧
      ∀ a, decode l.word = .ok (.tst a) → t.blk.z = decide ((readReg l.snap a).toNat = 0)

/-- From 10_state.md R21: over all steps, a register changes only at the engine's turn that commits a command naming it as a
destination, by an accepted window write to it, or by reset acting, which leaves the reset values. That the engine's
turn also comes with nothing scheduled is the model's choice (DESIGN CHOICE, log 3). -/
def Obligations.RegistersChangeOnlyByCommitOrWindowWrite : Prop :=
  ∀ (s t : State) (r : Reg), step s = .next t → (t.blk.reg r).toNat ≠ (s.blk.reg r).toNat →
    (s.ResetActs ∧ t.blk = Block.reset t.cfg) ∨
    (s.EngineNext ∧ ∃ l i, s.blk.busy = true ∧ s.blk.cur = some l ∧ decode l.word = .ok i ∧ r ∈ i.dests) ∨
    (s.blk.busy = false ∧ s.inReset = false ∧ ∃ k v es, 32 * k < s.cfg.B ∧
      s.schedule = writeAt s.cfg (regByteOffset s.cfg r (4 * k)) v :: es)

/-- 10_state.md R36: no step changes the configuration, and so no host read of CONFIG or CAPBITS ever changes. -/
def Obligations.ConfigurationNeverChanges : Prop :=
  ∀ s t : State, step s = .next t →
    t.cfg = s.cfg ∧ t.blk.readTarget .config = s.blk.readTarget .config ∧
    t.blk.readTarget .capbits = s.blk.readTarget .capbits

/-- 60_exceptions.md R225, R226, R227: over all steps, a recorded error stays as it is until a write of CTRL.ERRCLR
or until reset acts. -/
def Obligations.ErrorRecordStaysUntilCleared : Prop :=
  ∀ s t : State, s.blk.err = true → step s = .next t →
    (t.blk.err = true ∧ t.blk.errCode = s.blk.errCode ∧ t.blk.errCmd = s.blk.errCmd) ∨
    (s.ResetActs ∧ t.blk = Block.reset t.cfg) ∨
    (s.inReset = false ∧ ∃ v es, v.getLsbD 0 = true ∧ s.schedule = writeAt s.cfg 0x00008 v :: es)

/-- 60_exceptions.md R220, 20_memory.md R59: the machine never traps. Every command answers a next state, and a step
stops only on a host access while reset is asserted. That an access which gets a bus error is a next state is the
model's reading of 20_memory.md R52 (log 6), and so it is for an access outside the block's addresses (R51, log 7). -/
def Obligations.NothingStopsButAnAccessInReset : Prop :=
  (∀ (i : Instr) (s : State), ∃ t, exec i s = .next t) ∧
  ∀ s : State, (∃ t, step s = .next t) ∨
    (s.inReset = true ∧ step s = .refused .accessInReset ∧ ∃ e es, s.schedule = e :: es ∧ e.isAccess = true)

/-! ## Host accesses -/

/-- 20_memory.md R58: a CMD write is discarded in the error state, OVERRUN while busy, and otherwise accepted whatever
the word: latched with a snapshot of the registers. -/
def Obligations.CmdWriteAcceptsRejectsOrDiscards : Prop :=
  ∀ (s : State) (w : Word) (es : List Event), s.inReset = false → s.schedule = cmdWrite s.cfg w :: es →
    step s = .next (((s.withSchedule es).withBlk
      (if s.blk.err then s.blk
       else if s.blk.busy then { s.blk with err := true, errCode := .overrun, errCmd := w }
       else { s.blk with busy := true, done := false, cur := some ⟨w, s.blk.x⟩ })).answer .written)

/-- 20_memory.md R57: a window write while busy is rejected as OVERRUN with ERRCMD 0 (the first error kept); otherwise
the 32 bits of the addressed word land, in the error state too, and no other bit changes. -/
def Obligations.WindowWriteLandsOrIsRejected : Prop :=
  ∀ (s : State) (r : Reg) (k : Nat) (v : Word) (es : List Event), 32 * k < s.cfg.B → s.inReset = false →
    s.schedule = writeAt s.cfg (0x10000 + r.val * rstride s.cfg + 4 * k) v :: es →
    (s.blk.busy = true →
      step s = .next (((s.withSchedule es).withBlk
        (if s.blk.err then s.blk else { s.blk with err := true, errCode := .overrun, errCmd := 0 })).answer .written)) ∧
    (s.blk.busy = false →
      ∃ v' : s.cfg.Value,
        (∀ i, i < s.cfg.B → v'.getLsbD i =
          if 32 * k ≤ i ∧ i < 32 * k + 32 then v.getLsbD (i - 32 * k) else (s.blk.reg r).getLsbD i) ∧
        step s = .next (((s.withSchedule es).withBlk { s.blk with x := s.blk.x.set r.val v' }).answer .written))

/-- 20_memory.md R56: a window read returns the committed 32 bits of the addressed word, busy or not, and changes
nothing else. -/
def Obligations.WindowReadReturnsTheCommittedWord : Prop :=
  ∀ (s : State) (r : Reg) (k : Nat) (es : List Event), 32 * k < s.cfg.B → s.inReset = false →
    s.schedule = readAt s.cfg (0x10000 + r.val * rstride s.cfg + 4 * k) :: es →
    ∃ d : Word, (∀ i, i < 32 → d.getLsbD i = (s.blk.reg r).getLsbD (32 * k + i)) ∧
      step s = .next ((s.withSchedule es).answer (.data d))

/-- 20_memory.md R54, R55: byte `i` of `x[r]` is at `0x10000 + r*RSTRIDE + i`, little-endian; RSTRIDE is the least power
of two that is at least 4 and at least B/8, and the window ends within the 17-bit map. -/
def Obligations.WindowIsLittleEndianWithStride : Prop :=
  (∀ c : Config, (∃ e, rstride c = 2 ^ e ∧ 2 ≤ e ∧ c.B / 8 ≤ 2 ^ e ∧ (e = 2 ∨ 2 ^ (e - 1) < c.B / 8)) ∧
    0x10000 + 16 * rstride c ≤ 0x20000) ∧
  (∀ (s : State) (r : Reg) (i : Nat), i < s.cfg.B / 8 →
    s.windowByte (0x10000 + r.val * rstride s.cfg + i) = (s.blk.reg r).extractLsb' (8 * i) 8) ∧
  ∀ (s : State) (r : Reg) (k j : Nat), 32 * k < s.cfg.B → j < 4 →
    (getWord (s.blk.reg r) k).extractLsb' (8 * j) 8 =
      s.windowByte (0x10000 + r.val * rstride s.cfg + 4 * k + j)

/-- 20_memory.md R52: an access of another width, or at an offset that is no multiple of 4, gets a bus error and changes
nothing of the block. -/
def Obligations.BadWidthOrAlignmentIsABusError : Prop :=
  ∀ (s : State) (offset size : Nat) (v : Word) (es : List Event), s.inReset = false → offset < 2 ^ 17 →
    (size ≠ 4 ∨ offset % 4 ≠ 0) →
    (s.schedule = .read (s.cfg.blockBase + offset) size :: es →
      step s = .next ((s.withSchedule es).answer .busError)) ∧
    (s.schedule = .write (s.cfg.blockBase + offset) size v :: es →
      step s = .next ((s.withSchedule es).answer .busError))

/-- 20_memory.md R53: reserved offsets and window bytes past a register read 0 and ignore writes; writes of the
read-only registers are ignored; CMD reads 0. No error is raised, busy or not: that such a write records no OVERRUN
while BUSY = 1 is the model's reading of R53 against R57 and 60_exceptions.md R224 (DEDUCED, log 8). -/
def Obligations.ReservedReadsZeroAndIgnoresWrites : Prop :=
  ∀ (s : State) (offset : Nat) (v : Word) (es : List Event), s.inReset = false → offset < 2 ^ 17 → offset % 4 = 0 →
    ((0x00018 ≤ offset ∧ ∀ r : Reg, ¬ isRegByte s.cfg r offset) →
      (s.schedule = readAt s.cfg offset :: es → step s = .next ((s.withSchedule es).answer (.data 0))) ∧
      (s.schedule = writeAt s.cfg offset v :: es → step s = .next ((s.withSchedule es).answer .written))) ∧
    (offset ∈ [0x00004, 0x0000C, 0x00010, 0x00014] →
      s.schedule = writeAt s.cfg offset v :: es → step s = .next ((s.withSchedule es).answer .written)) ∧
    (offset = 0x00000 → s.schedule = readAt s.cfg offset :: es →
      step s = .next ((s.withSchedule es).answer (.data 0)))

/-- 20_memory.md R61: a read, anywhere and of any width, changes nothing but the answer; and a window write made twice
is the same as made once. -/
def Obligations.ReadsHaveNoSideEffect : Prop :=
  (∀ (s t : State) (addr size : Nat) (es : List Event), s.schedule = .read addr size :: es → step s = .next t →
    ∃ a, t = (s.withSchedule es).answer a) ∧
  ∀ (c : Config) (b : Block c) (r : Reg) (k : Nat) (v : Word),
    (b.writeWindow r k v).writeWindow r k v = b.writeWindow r k v

/-- 10_state.md R29, 60_exceptions.md R227, R228: one CTRL write clears the error record if bit 0 is set, clears DONE if
bit 1 is set and sets IE if bit 2 is set, all together, busy or not, and nothing else; CTRL reads back IE alone. With bit
2 zero IE becomes 0 when no action bit is set, and stays as it was when one is: that is the model's reading of R227, R228
and V-ERR-7 beside R29 (DEDUCED, log 20). -/
def Obligations.CtrlWriteActsOnItsThreeBits : Prop :=
  ∀ (s : State) (v : Word) (es : List Event), s.inReset = false →
    (s.schedule = writeAt s.cfg 0x00008 v :: es →
      step s = .next (((s.withSchedule es).withBlk
        { s.blk with
          err := s.blk.err && !v.getLsbD 0
          errCode := if v.getLsbD 0 then .none else s.blk.errCode
          errCmd := if v.getLsbD 0 then 0 else s.blk.errCmd
          done := s.blk.done && !v.getLsbD 1
          ie :=
            if v.getLsbD 2 then true
            else if v.getLsbD 0 || v.getLsbD 1 then s.blk.ie
            else false }).answer .written)) ∧
    (s.schedule = readAt s.cfg 0x00008 :: es →
      ∃ d : Word, d.toNat = s.blk.ie.toNat * 2 ^ 2 ∧ step s = .next ((s.withSchedule es).answer (.data d)))

/-- 10_state.md R23: the fields of STATUS as the host reads them; a write of it is ignored. -/
def Obligations.StatusShowsItsFields : Prop :=
  ∀ (s : State) (v : Word) (es : List Event), s.inReset = false →
    (s.schedule = writeAt s.cfg 0x00004 v :: es → step s = .next ((s.withSchedule es).answer .written)) ∧
    (s.schedule = readAt s.cfg 0x00004 :: es →
      ∃ d : Word, step s = .next ((s.withSchedule es).answer (.data d)) ∧
        d.getLsbD 0 = s.blk.busy ∧ d.getLsbD 1 = s.blk.done ∧ d.getLsbD 2 = s.blk.err ∧ d.getLsbD 3 = false ∧
        d.getLsbD 4 = s.blk.eq ∧ d.getLsbD 5 = s.blk.lt ∧ d.getLsbD 6 = s.blk.gt ∧ d.getLsbD 7 = s.blk.z ∧
        (d.extractLsb' 8 4).toNat =
          (match s.blk.errCode with | .none => 0 | .illegal => 1 | .divz => 2 | .overrun => 3) ∧
        ∀ i, 12 ≤ i → d.getLsbD i = false)

/-- 10_state.md R30 to R33: what the host reads at CONFIG, CAPBITS, ERRCMD and CMD. -/
def Obligations.ConfigurationAndErrcmdReads : Prop :=
  ∀ (s : State) (es : List Event), s.inReset = false →
    (s.schedule = readAt s.cfg 0x0000C :: es →
      ∃ d : Word, d.toNat = 16 * 2 ^ 24 + s.cfg.N * 2 ^ 8 + s.cfg.W ∧
        step s = .next ((s.withSchedule es).answer (.data d))) ∧
    (s.schedule = readAt s.cfg 0x00010 :: es →
      ∃ d : Word, d.toNat = s.cfg.W * s.cfg.N ∧ step s = .next ((s.withSchedule es).answer (.data d))) ∧
    (s.schedule = readAt s.cfg 0x00014 :: es →
      step s = .next ((s.withSchedule es).answer (.data s.blk.errCmd))) ∧
    (s.schedule = readAt s.cfg 0x00000 :: es → step s = .next ((s.withSchedule es).answer (.data 0)))

/-- 60_exceptions.md R226: while ERR = 1 a CMD write has no effect at all; a running command still commits, with the
effect `exec` gives it, or as ILLEGAL when its word is no command, and the record of the first error stays; and a
window write while idle lands, with nothing else of the block changed. -/
def Obligations.ErrorStateDiscardsOnlyCommands : Prop :=
  ∀ (s : State) (es : List Event), s.inReset = false → s.blk.err = true →
    (∀ w, s.schedule = cmdWrite s.cfg w :: es → step s = .next ((s.withSchedule es).answer .written)) ∧
    (∀ l, s.blk.busy = true → s.blk.cur = some l → s.schedule = .engine :: es →
      ∃ b : Block s.cfg, step s = .next ((s.withSchedule es).withBlk b) ∧
        (∀ i, decode l.word = .ok i → exec i (s.withSchedule es) = .next ((s.withSchedule es).withBlk b)) ∧
        (∀ e, decode l.word = .error e → b = s.blk.afterError .illegal l.word) ∧
        b.busy = false ∧ b.done = true ∧ b.cur = none ∧
        b.err = true ∧ b.errCode = s.blk.errCode ∧ b.errCmd = s.blk.errCmd) ∧
    (∀ (r : Reg) (k : Nat) (v : Word), 32 * k < s.cfg.B → s.blk.busy = false →
      s.schedule = writeAt s.cfg (regByteOffset s.cfg r (4 * k)) v :: es →
      ∃ v' : s.cfg.Value, getWord v' k = v ∧
        step s = .next (((s.withSchedule es).withBlk { s.blk with x := s.blk.x.set r.val v' }).answer .written))

/-- 60_exceptions.md R229: the interrupt line, and what raises and drops it. -/
def Obligations.InterruptLineFollowsItsSources : Prop :=
  ∀ (c : Config) (b : Block c),
    (b.irq = true ↔ b.ie = true ∧ (b.done = true ∨ b.err = true)) ∧
    b.endCommand.irq = b.ie ∧ (b.clearError.clearDone).irq = false

/-! ## Reset, the invariant, runs -/

/-- 70_reset_and_hazards.md R250, R252: asserting reset forces the reset values at once, so a running command is
abandoned; while it is asserted a host access to the block is refused; on release the block is idle at its reset
values. -/
def Obligations.ResetForcesResetValues : Prop :=
  ∀ (s : State) (es : List Event),
    (s.schedule = .resetPin true :: es →
      step s = .next { cfg := s.cfg, blk := Block.reset s.cfg, inReset := true, schedule := es, response := s.response }) ∧
    (s.inReset = true →
      (s.schedule = .resetPin false :: es →
        step s =
          .next { cfg := s.cfg, blk := Block.reset s.cfg, inReset := false, schedule := es, response := s.response }) ∧
      (∀ offset size v, offset < 2 ^ 17 →
        (s.schedule = .read (s.cfg.blockBase + offset) size :: es → step s = .refused .accessInReset) ∧
        (s.schedule = .write (s.cfg.blockBase + offset) size v :: es → step s = .refused .accessInReset)))

/-- 70_reset_and_hazards.md R251: the reset values, for every configuration. -/
def Obligations.ResetValuesAreZero : Prop :=
  ∀ c : Config,
    (∀ r : Reg, ((State.resetOf c).blk.reg r).toNat = 0) ∧
    (Block.reset c).statusWord = 0 ∧ (Block.reset c).errCode = .none ∧ (Block.reset c).ie = false ∧
    (Block.reset c).ctrlWord = 0 ∧ (Block.reset c).errCmd = 0 ∧ (Block.reset c).cur = none ∧
    (Block.reset c).irq = false ∧ (State.resetOf c).inReset = false

/-- 10_state.md R24: the invariant holds right after reset, in every configuration. -/
def Obligations.InvariantHoldsAfterReset : Prop :=
  ∀ c : Config, (State.resetOf c).Inv

/-- 10_state.md R23, R24, R25, R34: every step keeps the invariant: BUSY exactly while the latch is valid and then not
DONE, the snapshot equal to the live registers, ERRCODE and ERRCMD zero without an error, at most one of EQ, LT, GT. -/
def Obligations.StepKeepsTheInvariant : Prop :=
  ∀ s t : State, s.Inv → step s = .next t → t.Inv

/-- 70_reset_and_hazards.md R263: a running command commits after finitely many steps unless reset intervenes. That
the engine moves once the schedule is exhausted is the model's fairness (DESIGN CHOICE, log 3). -/
def Obligations.AcceptedCommandAlwaysCommits : Prop :=
  ∀ s : State, s.Inv → s.blk.busy = true → s.inReset = false → noReset s.schedule = true →
    ∃ k t, k ≤ s.schedule.length + 1 ∧ runSteps k s = .next t ∧
      t.blk.busy = false ∧ t.blk.done = true ∧ t.blk.cur = none

/-- 20_memory.md R59, R65, 70_reset_and_hazards.md R259: whatever host accesses come between the acceptance of a command
and its commit, the registers and flags after the commit are what the command gives on the registers as they were at
its acceptance. -/
def Obligations.CommitIsFixedAtAcceptance : Prop :=
  ∀ (s : State) (w : Word) (i : Instr) (accesses rest : List Event),
    s.inReset = false → s.blk.err = false → s.blk.busy = false → decode w = .ok i →
    accesses.all Event.isAccess = true →
    s.schedule = cmdWrite s.cfg w :: (accesses ++ .engine :: rest) →
    ∃ (atOnce later : Block s.cfg) (answer : Option Response),
      exec i (s.withBlk { s.blk with busy := true, done := false, cur := some ⟨w, s.blk.x⟩ }) =
        .next (s.withBlk atOnce) ∧
      runSteps (accesses.length + 2) s =
        .next { cfg := s.cfg, blk := later, inReset := false, schedule := rest, response := answer } ∧
      later.x = atOnce.x ∧ later.eq = atOnce.eq ∧ later.lt = atOnce.lt ∧ later.gt = atOnce.gt ∧
      later.z = atOnce.z ∧ later.busy = false ∧ later.done = true

/-! ## Steps that change nothing of the block -/

/-- 20_memory.md R50, 60_exceptions.md R233: the engine starts no command by itself, and an idle block holds its state.
The engine's turn with BUSY = 0 takes its event off the schedule and changes nothing else (the model's stutter step,
DEDUCED, log 4), and with nothing scheduled nothing changes at all (log 3). -/
def Obligations.IdleBlockHoldsItsState : Prop :=
  ∀ (s : State) (es : List Event), s.inReset = false → s.blk.busy = false →
    (s.schedule = .engine :: es → step s = .next (s.withSchedule es)) ∧ (s.schedule = [] → step s = .next s)

/-- 20_memory.md R51: the block decodes the 2^17 bytes from BLOCKBASE on. A read or a write of any size at any other
address changes nothing of the block, in reset too, and gets no data from it (the answer `elsewhere` is the model's,
DEDUCED, log 7). -/
def Obligations.AccessOutsideTheBlockChangesNothing : Prop :=
  ∀ (s : State) (addr size : Nat) (v : Word) (es : List Event),
    addr < s.cfg.blockBase ∨ s.cfg.blockBase + 2 ^ 17 ≤ addr →
    (s.schedule = .read addr size :: es → step s = .next ((s.withSchedule es).answer .elsewhere)) ∧
    (s.schedule = .write addr size v :: es → step s = .next ((s.withSchedule es).answer .elsewhere))
end

