-- ==== Sys2Proof/Laws/State.lean ====
section
/-! SUPPORT. What each update of the state leaves in each field, so that no later proof unfolds a record update. -/

namespace Sys2Proof.Machine

/-! ## Updates of the machine -/

@[simp] theorem State.withBlk_cfg (s : State) (b : Block s.cfg) : (s.withBlk b).cfg = s.cfg := rfl
@[simp] theorem State.withBlk_inReset (s : State) (b : Block s.cfg) : (s.withBlk b).inReset = s.inReset := rfl
@[simp] theorem State.withBlk_schedule (s : State) (b : Block s.cfg) : (s.withBlk b).schedule = s.schedule := rfl
@[simp] theorem State.withBlk_response (s : State) (b : Block s.cfg) : (s.withBlk b).response = s.response := rfl
@[simp] theorem State.withBlk_blk (s : State) (b : Block s.cfg) : (s.withBlk b).blk = b := rfl

@[simp] theorem State.withSchedule_cfg (s : State) (es : List Event) : (s.withSchedule es).cfg = s.cfg := rfl
@[simp] theorem State.withSchedule_inReset (s : State) (es : List Event) : (s.withSchedule es).inReset = s.inReset := rfl
@[simp] theorem State.withSchedule_schedule (s : State) (es : List Event) : (s.withSchedule es).schedule = es := rfl
@[simp] theorem State.withSchedule_response (s : State) (es : List Event) : (s.withSchedule es).response = s.response := rfl
@[simp] theorem State.withSchedule_blk (s : State) (es : List Event) : (s.withSchedule es).blk = s.blk := rfl

@[simp] theorem State.answer_cfg (s : State) (r : Response) : (s.answer r).cfg = s.cfg := rfl
@[simp] theorem State.answer_inReset (s : State) (r : Response) : (s.answer r).inReset = s.inReset := rfl
@[simp] theorem State.answer_schedule (s : State) (r : Response) : (s.answer r).schedule = s.schedule := rfl
@[simp] theorem State.answer_response (s : State) (r : Response) : (s.answer r).response = some r := rfl
@[simp] theorem State.answer_blk (s : State) (r : Response) : (s.answer r).blk = s.blk := rfl

/-! A block of `s` put into `s` with another schedule: the same configuration, so the same type of block. -/

@[simp] theorem State.withSchedule_withBlk_cfg (s : State) (es : List Event) (b : Block s.cfg) : ((s.withSchedule es).withBlk b).cfg = s.cfg := rfl
@[simp] theorem State.withSchedule_withBlk_inReset (s : State) (es : List Event) (b : Block s.cfg) : ((s.withSchedule es).withBlk b).inReset = s.inReset := rfl
@[simp] theorem State.withSchedule_withBlk_schedule (s : State) (es : List Event) (b : Block s.cfg) : ((s.withSchedule es).withBlk b).schedule = es := rfl
@[simp] theorem State.withSchedule_withBlk_response (s : State) (es : List Event) (b : Block s.cfg) : ((s.withSchedule es).withBlk b).response = s.response := rfl
@[simp] theorem State.withSchedule_withBlk_blk (s : State) (es : List Event) (b : Block s.cfg) : ((s.withSchedule es).withBlk b).blk = b := rfl

@[simp] theorem State.withBlk_withBlk (s : State) (b b' : Block s.cfg) : (s.withBlk b).withBlk b' = s.withBlk b' := rfl

@[simp] theorem State.withBlk_self (s : State) : s.withBlk s.blk = s := rfl

/-! ## Updates of the block -/

@[simp] theorem Block.applyFlags_x {c : Config} (b : Block c) (fl : FlagWrite) : (b.applyFlags fl).x = b.x := by cases fl <;> rfl
@[simp] theorem Block.applyFlags_busy {c : Config} (b : Block c) (fl : FlagWrite) : (b.applyFlags fl).busy = b.busy := by cases fl <;> rfl
@[simp] theorem Block.applyFlags_done {c : Config} (b : Block c) (fl : FlagWrite) : (b.applyFlags fl).done = b.done := by cases fl <;> rfl
@[simp] theorem Block.applyFlags_err {c : Config} (b : Block c) (fl : FlagWrite) : (b.applyFlags fl).err = b.err := by cases fl <;> rfl
@[simp] theorem Block.applyFlags_eq {c : Config} (b : Block c) (fl : FlagWrite) : (b.applyFlags fl).eq = (match fl with | .compare o => o == .eq | .none => b.eq | .zero _ => b.eq) := by cases fl <;> rfl
@[simp] theorem Block.applyFlags_lt {c : Config} (b : Block c) (fl : FlagWrite) : (b.applyFlags fl).lt = (match fl with | .compare o => o == .lt | .none => b.lt | .zero _ => b.lt) := by cases fl <;> rfl
@[simp] theorem Block.applyFlags_gt {c : Config} (b : Block c) (fl : FlagWrite) : (b.applyFlags fl).gt = (match fl with | .compare o => o == .gt | .none => b.gt | .zero _ => b.gt) := by cases fl <;> rfl
@[simp] theorem Block.applyFlags_z {c : Config} (b : Block c) (fl : FlagWrite) : (b.applyFlags fl).z = (match fl with | .zero v => v | .none => b.z | .compare _ => b.z) := by cases fl <;> rfl
@[simp] theorem Block.applyFlags_errCode {c : Config} (b : Block c) (fl : FlagWrite) : (b.applyFlags fl).errCode = b.errCode := by cases fl <;> rfl
@[simp] theorem Block.applyFlags_ie {c : Config} (b : Block c) (fl : FlagWrite) : (b.applyFlags fl).ie = b.ie := by cases fl <;> rfl
@[simp] theorem Block.applyFlags_errCmd {c : Config} (b : Block c) (fl : FlagWrite) : (b.applyFlags fl).errCmd = b.errCmd := by cases fl <;> rfl
@[simp] theorem Block.applyFlags_cur {c : Config} (b : Block c) (fl : FlagWrite) : (b.applyFlags fl).cur = b.cur := by cases fl <;> rfl

@[simp] theorem Block.clearError_x {c : Config} (b : Block c) : (b.clearError).x = b.x := rfl
@[simp] theorem Block.clearError_busy {c : Config} (b : Block c) : (b.clearError).busy = b.busy := rfl
@[simp] theorem Block.clearError_done {c : Config} (b : Block c) : (b.clearError).done = b.done := rfl
@[simp] theorem Block.clearError_err {c : Config} (b : Block c) : (b.clearError).err = false := rfl
@[simp] theorem Block.clearError_eq {c : Config} (b : Block c) : (b.clearError).eq = b.eq := rfl
@[simp] theorem Block.clearError_lt {c : Config} (b : Block c) : (b.clearError).lt = b.lt := rfl
@[simp] theorem Block.clearError_gt {c : Config} (b : Block c) : (b.clearError).gt = b.gt := rfl
@[simp] theorem Block.clearError_z {c : Config} (b : Block c) : (b.clearError).z = b.z := rfl
@[simp] theorem Block.clearError_errCode {c : Config} (b : Block c) : (b.clearError).errCode = .none := rfl
@[simp] theorem Block.clearError_ie {c : Config} (b : Block c) : (b.clearError).ie = b.ie := rfl
@[simp] theorem Block.clearError_errCmd {c : Config} (b : Block c) : (b.clearError).errCmd = 0 := rfl
@[simp] theorem Block.clearError_cur {c : Config} (b : Block c) : (b.clearError).cur = b.cur := rfl

@[simp] theorem Block.clearDone_x {c : Config} (b : Block c) : (b.clearDone).x = b.x := rfl
@[simp] theorem Block.clearDone_busy {c : Config} (b : Block c) : (b.clearDone).busy = b.busy := rfl
@[simp] theorem Block.clearDone_done {c : Config} (b : Block c) : (b.clearDone).done = false := rfl
@[simp] theorem Block.clearDone_err {c : Config} (b : Block c) : (b.clearDone).err = b.err := rfl
@[simp] theorem Block.clearDone_eq {c : Config} (b : Block c) : (b.clearDone).eq = b.eq := rfl
@[simp] theorem Block.clearDone_lt {c : Config} (b : Block c) : (b.clearDone).lt = b.lt := rfl
@[simp] theorem Block.clearDone_gt {c : Config} (b : Block c) : (b.clearDone).gt = b.gt := rfl
@[simp] theorem Block.clearDone_z {c : Config} (b : Block c) : (b.clearDone).z = b.z := rfl
@[simp] theorem Block.clearDone_errCode {c : Config} (b : Block c) : (b.clearDone).errCode = b.errCode := rfl
@[simp] theorem Block.clearDone_ie {c : Config} (b : Block c) : (b.clearDone).ie = b.ie := rfl
@[simp] theorem Block.clearDone_errCmd {c : Config} (b : Block c) : (b.clearDone).errCmd = b.errCmd := rfl
@[simp] theorem Block.clearDone_cur {c : Config} (b : Block c) : (b.clearDone).cur = b.cur := rfl

@[simp] theorem Block.setIE_x {c : Config} (b : Block c) (on : Bool) : (b.setIE on).x = b.x := rfl
@[simp] theorem Block.setIE_busy {c : Config} (b : Block c) (on : Bool) : (b.setIE on).busy = b.busy := rfl
@[simp] theorem Block.setIE_done {c : Config} (b : Block c) (on : Bool) : (b.setIE on).done = b.done := rfl
@[simp] theorem Block.setIE_err {c : Config} (b : Block c) (on : Bool) : (b.setIE on).err = b.err := rfl
@[simp] theorem Block.setIE_eq {c : Config} (b : Block c) (on : Bool) : (b.setIE on).eq = b.eq := rfl
@[simp] theorem Block.setIE_lt {c : Config} (b : Block c) (on : Bool) : (b.setIE on).lt = b.lt := rfl
@[simp] theorem Block.setIE_gt {c : Config} (b : Block c) (on : Bool) : (b.setIE on).gt = b.gt := rfl
@[simp] theorem Block.setIE_z {c : Config} (b : Block c) (on : Bool) : (b.setIE on).z = b.z := rfl
@[simp] theorem Block.setIE_errCode {c : Config} (b : Block c) (on : Bool) : (b.setIE on).errCode = b.errCode := rfl
@[simp] theorem Block.setIE_ie {c : Config} (b : Block c) (on : Bool) : (b.setIE on).ie = on := rfl
@[simp] theorem Block.setIE_errCmd {c : Config} (b : Block c) (on : Bool) : (b.setIE on).errCmd = b.errCmd := rfl
@[simp] theorem Block.setIE_cur {c : Config} (b : Block c) (on : Bool) : (b.setIE on).cur = b.cur := rfl

@[simp] theorem Block.accept_x {c : Config} (b : Block c) (w : Word) : (b.accept w).x = b.x := rfl
@[simp] theorem Block.accept_busy {c : Config} (b : Block c) (w : Word) : (b.accept w).busy = true := rfl
@[simp] theorem Block.accept_done {c : Config} (b : Block c) (w : Word) : (b.accept w).done = false := rfl
@[simp] theorem Block.accept_err {c : Config} (b : Block c) (w : Word) : (b.accept w).err = b.err := rfl
@[simp] theorem Block.accept_eq {c : Config} (b : Block c) (w : Word) : (b.accept w).eq = b.eq := rfl
@[simp] theorem Block.accept_lt {c : Config} (b : Block c) (w : Word) : (b.accept w).lt = b.lt := rfl
@[simp] theorem Block.accept_gt {c : Config} (b : Block c) (w : Word) : (b.accept w).gt = b.gt := rfl
@[simp] theorem Block.accept_z {c : Config} (b : Block c) (w : Word) : (b.accept w).z = b.z := rfl
@[simp] theorem Block.accept_errCode {c : Config} (b : Block c) (w : Word) : (b.accept w).errCode = b.errCode := rfl
@[simp] theorem Block.accept_ie {c : Config} (b : Block c) (w : Word) : (b.accept w).ie = b.ie := rfl
@[simp] theorem Block.accept_errCmd {c : Config} (b : Block c) (w : Word) : (b.accept w).errCmd = b.errCmd := rfl
@[simp] theorem Block.accept_cur {c : Config} (b : Block c) (w : Word) : (b.accept w).cur = some ⟨w, b.x⟩ := rfl

@[simp] theorem Block.endCommand_x {c : Config} (b : Block c) : (b.endCommand).x = b.x := rfl
@[simp] theorem Block.endCommand_busy {c : Config} (b : Block c) : (b.endCommand).busy = false := rfl
@[simp] theorem Block.endCommand_done {c : Config} (b : Block c) : (b.endCommand).done = true := rfl
@[simp] theorem Block.endCommand_err {c : Config} (b : Block c) : (b.endCommand).err = b.err := rfl
@[simp] theorem Block.endCommand_eq {c : Config} (b : Block c) : (b.endCommand).eq = b.eq := rfl
@[simp] theorem Block.endCommand_lt {c : Config} (b : Block c) : (b.endCommand).lt = b.lt := rfl
@[simp] theorem Block.endCommand_gt {c : Config} (b : Block c) : (b.endCommand).gt = b.gt := rfl
@[simp] theorem Block.endCommand_z {c : Config} (b : Block c) : (b.endCommand).z = b.z := rfl
@[simp] theorem Block.endCommand_errCode {c : Config} (b : Block c) : (b.endCommand).errCode = b.errCode := rfl
@[simp] theorem Block.endCommand_ie {c : Config} (b : Block c) : (b.endCommand).ie = b.ie := rfl
@[simp] theorem Block.endCommand_errCmd {c : Config} (b : Block c) : (b.endCommand).errCmd = b.errCmd := rfl
@[simp] theorem Block.endCommand_cur {c : Config} (b : Block c) : (b.endCommand).cur = none := rfl

@[simp] theorem Block.recordError_x {c : Config} (b : Block c) (code : ErrCode) (w : Word) : (b.recordError code w).x = b.x := by cases h : b.err <;> simp [Block.recordError, h]
@[simp] theorem Block.recordError_busy {c : Config} (b : Block c) (code : ErrCode) (w : Word) : (b.recordError code w).busy = b.busy := by cases h : b.err <;> simp [Block.recordError, h]
@[simp] theorem Block.recordError_done {c : Config} (b : Block c) (code : ErrCode) (w : Word) : (b.recordError code w).done = b.done := by cases h : b.err <;> simp [Block.recordError, h]
@[simp] theorem Block.recordError_err {c : Config} (b : Block c) (code : ErrCode) (w : Word) : (b.recordError code w).err = true := by cases h : b.err <;> simp [Block.recordError, h]
@[simp] theorem Block.recordError_eq {c : Config} (b : Block c) (code : ErrCode) (w : Word) : (b.recordError code w).eq = b.eq := by cases h : b.err <;> simp [Block.recordError, h]
@[simp] theorem Block.recordError_lt {c : Config} (b : Block c) (code : ErrCode) (w : Word) : (b.recordError code w).lt = b.lt := by cases h : b.err <;> simp [Block.recordError, h]
@[simp] theorem Block.recordError_gt {c : Config} (b : Block c) (code : ErrCode) (w : Word) : (b.recordError code w).gt = b.gt := by cases h : b.err <;> simp [Block.recordError, h]
@[simp] theorem Block.recordError_z {c : Config} (b : Block c) (code : ErrCode) (w : Word) : (b.recordError code w).z = b.z := by cases h : b.err <;> simp [Block.recordError, h]
@[simp] theorem Block.recordError_errCode {c : Config} (b : Block c) (code : ErrCode) (w : Word) : (b.recordError code w).errCode = (if b.err then b.errCode else code) := by cases h : b.err <;> simp [Block.recordError, h]
@[simp] theorem Block.recordError_ie {c : Config} (b : Block c) (code : ErrCode) (w : Word) : (b.recordError code w).ie = b.ie := by cases h : b.err <;> simp [Block.recordError, h]
@[simp] theorem Block.recordError_errCmd {c : Config} (b : Block c) (code : ErrCode) (w : Word) : (b.recordError code w).errCmd = (if b.err then b.errCmd else w) := by cases h : b.err <;> simp [Block.recordError, h]
@[simp] theorem Block.recordError_cur {c : Config} (b : Block c) (code : ErrCode) (w : Word) : (b.recordError code w).cur = b.cur := by cases h : b.err <;> simp [Block.recordError, h]

@[simp] theorem Block.clearErrorIf_x {c : Config} (b : Block c) (on : Bool) : (b.clearErrorIf on).x = b.x := by cases on <;> simp [Block.clearErrorIf]
@[simp] theorem Block.clearErrorIf_busy {c : Config} (b : Block c) (on : Bool) : (b.clearErrorIf on).busy = b.busy := by cases on <;> simp [Block.clearErrorIf]
@[simp] theorem Block.clearErrorIf_done {c : Config} (b : Block c) (on : Bool) : (b.clearErrorIf on).done = b.done := by cases on <;> simp [Block.clearErrorIf]
@[simp] theorem Block.clearErrorIf_err {c : Config} (b : Block c) (on : Bool) : (b.clearErrorIf on).err = (b.err && !on) := by cases on <;> simp [Block.clearErrorIf]
@[simp] theorem Block.clearErrorIf_eq {c : Config} (b : Block c) (on : Bool) : (b.clearErrorIf on).eq = b.eq := by cases on <;> simp [Block.clearErrorIf]
@[simp] theorem Block.clearErrorIf_lt {c : Config} (b : Block c) (on : Bool) : (b.clearErrorIf on).lt = b.lt := by cases on <;> simp [Block.clearErrorIf]
@[simp] theorem Block.clearErrorIf_gt {c : Config} (b : Block c) (on : Bool) : (b.clearErrorIf on).gt = b.gt := by cases on <;> simp [Block.clearErrorIf]
@[simp] theorem Block.clearErrorIf_z {c : Config} (b : Block c) (on : Bool) : (b.clearErrorIf on).z = b.z := by cases on <;> simp [Block.clearErrorIf]
@[simp] theorem Block.clearErrorIf_errCode {c : Config} (b : Block c) (on : Bool) : (b.clearErrorIf on).errCode = (if on then .none else b.errCode) := by cases on <;> simp [Block.clearErrorIf]
@[simp] theorem Block.clearErrorIf_ie {c : Config} (b : Block c) (on : Bool) : (b.clearErrorIf on).ie = b.ie := by cases on <;> simp [Block.clearErrorIf]
@[simp] theorem Block.clearErrorIf_errCmd {c : Config} (b : Block c) (on : Bool) : (b.clearErrorIf on).errCmd = (if on then 0 else b.errCmd) := by cases on <;> simp [Block.clearErrorIf]
@[simp] theorem Block.clearErrorIf_cur {c : Config} (b : Block c) (on : Bool) : (b.clearErrorIf on).cur = b.cur := by cases on <;> simp [Block.clearErrorIf]

@[simp] theorem Block.clearDoneIf_x {c : Config} (b : Block c) (on : Bool) : (b.clearDoneIf on).x = b.x := by cases on <;> simp [Block.clearDoneIf]
@[simp] theorem Block.clearDoneIf_busy {c : Config} (b : Block c) (on : Bool) : (b.clearDoneIf on).busy = b.busy := by cases on <;> simp [Block.clearDoneIf]
@[simp] theorem Block.clearDoneIf_done {c : Config} (b : Block c) (on : Bool) : (b.clearDoneIf on).done = (b.done && !on) := by cases on <;> simp [Block.clearDoneIf]
@[simp] theorem Block.clearDoneIf_err {c : Config} (b : Block c) (on : Bool) : (b.clearDoneIf on).err = b.err := by cases on <;> simp [Block.clearDoneIf]
@[simp] theorem Block.clearDoneIf_eq {c : Config} (b : Block c) (on : Bool) : (b.clearDoneIf on).eq = b.eq := by cases on <;> simp [Block.clearDoneIf]
@[simp] theorem Block.clearDoneIf_lt {c : Config} (b : Block c) (on : Bool) : (b.clearDoneIf on).lt = b.lt := by cases on <;> simp [Block.clearDoneIf]
@[simp] theorem Block.clearDoneIf_gt {c : Config} (b : Block c) (on : Bool) : (b.clearDoneIf on).gt = b.gt := by cases on <;> simp [Block.clearDoneIf]
@[simp] theorem Block.clearDoneIf_z {c : Config} (b : Block c) (on : Bool) : (b.clearDoneIf on).z = b.z := by cases on <;> simp [Block.clearDoneIf]
@[simp] theorem Block.clearDoneIf_errCode {c : Config} (b : Block c) (on : Bool) : (b.clearDoneIf on).errCode = b.errCode := by cases on <;> simp [Block.clearDoneIf]
@[simp] theorem Block.clearDoneIf_ie {c : Config} (b : Block c) (on : Bool) : (b.clearDoneIf on).ie = b.ie := by cases on <;> simp [Block.clearDoneIf]
@[simp] theorem Block.clearDoneIf_errCmd {c : Config} (b : Block c) (on : Bool) : (b.clearDoneIf on).errCmd = b.errCmd := by cases on <;> simp [Block.clearDoneIf]
@[simp] theorem Block.clearDoneIf_cur {c : Config} (b : Block c) (on : Bool) : (b.clearDoneIf on).cur = b.cur := by cases on <;> simp [Block.clearDoneIf]

end Sys2Proof.Machine
end

