-- ==== Sys2Proof/Laws/Ops.lean ====
section
/-! SUPPORT. One lemma for each shared operation: register writes, commit, error entry, the offset map, bus words. -/

namespace Sys2Proof.Machine

/-! ## Registers -/

theorem readReg_writeReg {c : Config} (x : RegFile c) (r r' : Reg) (v : c.Value) :
    readReg (writeReg x r v) r' = if r = r' then v else readReg x r' := by
  simp only [readReg, writeReg, Vector.getElem_set, Fin.ext_iff]

theorem writeReg_eq_set {c : Config} (x : RegFile c) (r : Reg) (v : c.Value) : writeReg x r v = x.set r.val v := rfl

theorem writeRegs_nil {c : Config} (x : RegFile c) : writeRegs x [] = x := rfl

theorem writeRegs_cons {c : Config} (x : RegFile c) (w : Reg × c.Value) (ws : List (Reg × c.Value)) :
    writeRegs x (w :: ws) = writeRegs (writeReg x w.1 w.2) ws := rfl

/-- A command's writes leave every register they do not name. -/
theorem readReg_writeRegs_of_not_mem {c : Config} (x : RegFile c) (ws : List (Reg × c.Value)) (r : Reg)
    (h : r ∉ ws.map Prod.fst) : readReg (writeRegs x ws) r = readReg x r := by
  induction ws generalizing x with
  | nil => rfl
  | cons w ws ih =>
    simp only [List.map_cons, List.mem_cons, not_or] at h
    rw [writeRegs_cons, ih _ h.2, readReg_writeReg, if_neg (Ne.symm h.1)]

/-! ## Commit and error entry -/

/-- A commit without flag writes is the spec's commit. -/
theorem Block.commitOk_none {c : Config} (b : Block c) (ws : List (Reg × c.Value)) :
    b.commitOk ws .none = b.afterCommit (writeRegs b.x ws) := rfl

/-- CMP's commit: the three flags and nothing else of the block's registers. -/
theorem Block.commitOk_compare {c : Config} (b : Block c) (o : Ordering) :
    b.commitOk [] (.compare o) = { b.afterCommit b.x with eq := o == .eq, lt := o == .lt, gt := o == .gt } := rfl

/-- TST's commit: Z and nothing else. -/
theorem Block.commitOk_zero {c : Config} (b : Block c) (v : Bool) :
    b.commitOk [] (.zero v) = { b.afterCommit b.x with z := v } := rfl

/-- A commit with an error is the spec's error entry at commit. -/
theorem Block.commitError_eq {c : Config} (b : Block c) (code : ErrCode) :
    b.commitError code = b.afterError code b.curWord := by
  cases h : b.err <;> simp [Block.commitError, Block.recordError, Block.afterError, Block.endCommand, h]

theorem Block.commitOk_x {c : Config} (b : Block c) (ws : List (Reg × c.Value)) (fl : FlagWrite) :
    (b.commitOk ws fl).x = writeRegs b.x ws := by cases fl <;> rfl

/-- `commit` always answers a next state, in which only the block has changed. -/
theorem State.commit_eq (s : State) (ws : List (Reg × s.cfg.Value)) (fl : FlagWrite) :
    s.commit ws fl = .next (s.withBlk (s.blk.commitOk ws fl)) := rfl

/-- `raise` always answers a next state, in which only the block has changed. -/
theorem State.raise_eq (s : State) (code : ErrCode) :
    s.raise code = .next (s.withBlk (s.blk.afterError code s.blk.curWord)) := by
  rw [State.raise, Block.commitError_eq]

/-! ## Operands of a latched command -/

theorem Block.operand_of_latched {c : Config} (b : Block c) (l : Latch c) (h : b.cur = some l) (r : Reg) :
    b.operand r = readReg l.snap r := by simp [Block.operand, h]

theorem Block.curWord_of_latched {c : Config} (b : Block c) (l : Latch c) (h : b.cur = some l) :
    b.curWord = l.word := by simp [Block.curWord, h]

/-! ## The offset map -/

theorem blockOffset?_some (c : Config) (addr : Nat) (o : BitVec 17) :
    blockOffset? c addr = some o ↔ addr = c.blockBase + o.toNat := by
  have ho := o.isLt
  rw [blockOffset?]
  split
  · rename_i h
    simp only [Option.some.injEq, ← BitVec.toNat_inj, BitVec.toNat_ofNat]
    rw [Nat.mod_eq_of_lt (by omega)]
    omega
  · rename_i h
    simp only [reduceCtorEq, false_iff]
    omega

theorem blockOffset?_none (c : Config) (addr : Nat) :
    blockOffset? c addr = none ↔ addr < c.blockBase ∨ c.blockBase + 2 ^ 17 ≤ addr := by
  rw [blockOffset?]; split <;> simp <;> omega

/-- The distance of a window offset from the window's start, as a difference. -/
theorem windowDistance_eq (o : Nat) (h : windowBase ≤ o) (h' : o < 2 * windowBase) : windowBase + windowDistance o = o := by
  unfold windowDistance windowBase at *
  omega

theorem rstride_pos (c : Config) : 0 < rstride c := Nat.lt_of_lt_of_le (by decide) (Nat.le_max_left 4 _)

/-- A place in the window is byte `i` of `x[r]`, where it says. -/
theorem windowPlace_some (c : Config) (d : Nat) (r : Reg) (i : Nat) (h : windowPlace c d = some (r, i)) :
    d = r.val * rstride c + i ∧ i < rstride c ∧ i < c.B / 8 := by
  unfold windowPlace at h
  split at h
  · split at h
    · simp only [Option.some.injEq, Prod.mk.injEq] at h
      obtain ⟨rfl, rfl⟩ := h
      exact ⟨by simp only; rw [Nat.mul_comm]; exact (Nat.div_add_mod _ _).symm, Nat.mod_lt _ (rstride_pos c), ‹_›⟩
    · cases h
  · cases h

/-- An aligned offset of a window word names the register and the word. -/
theorem targetOf_window (c : Config) (o : BitVec 17) (r : Reg) (k : Nat) (h : targetOf c o = .window r k) :
    windowBase ≤ o.toNat ∧ ∃ i, windowPlace c (windowDistance o.toNat) = some (r, i) ∧ i / 4 = k := by
  unfold targetOf at h
  repeat' split at h
  all_goals first | contradiction | skip
  refine ⟨Nat.le_of_not_lt ‹_›, ?_⟩
  unfold windowTarget at h
  split at h
  · rename_i r' i place
    simp only [Target.window.injEq] at h
    obtain ⟨rfl, rfl⟩ := h
    exact ⟨i, place, rfl⟩
  · contradiction

/-- The reset input forces the reset values when it is asserted or is being released, and changes nothing otherwise. -/
theorem State.setResetPin_cases (s : State) (level : Bool) :
    ((level = true ∨ s.inReset = true) ∧
      s.setResetPin level = { s with blk := Block.reset s.cfg, inReset := level }) ∨
    (level = false ∧ s.inReset = false ∧ s.setResetPin level = s) := by
  unfold State.setResetPin
  split
  · rename_i h; exact .inl ⟨by simpa using h, rfl⟩
  · rename_i h
    simp only [Bool.or_eq_true, not_or, Bool.not_eq_true] at h
    exact .inr ⟨h.1, h.2, rfl⟩

/-! ## CTRL writes -/

/-- Bit 2 set sets IE, whatever the action bits. -/
theorem ieAfterWrite_of_set (v : Word) (ie : Bool) (h : v.getLsbD 2 = true) : ieAfterWrite v ie = true := by
  simp only [ieAfterWrite, h, Bool.true_or, ite_self]

/-- A write that does not acknowledge stores bit 2. -/
theorem ieAfterWrite_of_no_action (v : Word) (ie : Bool) (h : acknowledges v = false) :
    ieAfterWrite v ie = v.getLsbD 2 := by
  simp only [ieAfterWrite, h, Bool.false_eq_true, if_false]

/-- An acknowledging write with bit 2 zero leaves IE. -/
theorem ieAfterWrite_of_action (v : Word) (ie : Bool) (h : acknowledges v = true) (h2 : v.getLsbD 2 = false) :
    ieAfterWrite v ie = ie := by
  simp only [ieAfterWrite, h, h2, if_true, Bool.false_or]

/-- All a CTRL write does. -/
theorem Block.writeCtrl_eq {c : Config} (b : Block c) (v : Word) :
    b.writeCtrl v = { b with
      err := b.err && !v.getLsbD 0
      errCode := if v.getLsbD 0 then .none else b.errCode
      errCmd := if v.getLsbD 0 then 0 else b.errCmd
      done := b.done && !v.getLsbD 1
      ie := ieAfterWrite v b.ie } := by
  unfold Block.writeCtrl Block.clearErrorIf Block.clearDoneIf
  generalize ieAfterWrite v b.ie = on
  cases v.getLsbD 0 <;> cases v.getLsbD 1 <;> simp [Block.setIE, Block.clearError, Block.clearDone]

/-! ## Host accesses -/

/-- A host read never changes the block. -/
theorem State.hostRead_cases (s : State) (addr size : Nat) :
    (∃ r, s.hostRead addr size = .next (s.answer r)) ∨
    (s.inReset = true ∧ s.hostRead addr size = .refused .accessInReset) := by
  unfold State.hostRead
  split
  · exact .inl ⟨_, rfl⟩
  · split
    · rename_i h; exact .inr ⟨h, rfl⟩
    · exact .inl ⟨_, rfl⟩

/-- A host write changes the block as its target's write does, when it is aligned and 32 bits wide at an offset of the
block, or not at all. -/
theorem State.hostWrite_cases (s : State) (addr size : Nat) (v : Word) :
    (∃ o : BitVec 17, s.inReset = false ∧ size = 4 ∧ o.toNat % 4 = 0 ∧ addr = s.cfg.blockBase + o.toNat ∧
      s.hostWrite addr size v = .next ((s.withBlk (s.blk.writeTarget v (targetOf s.cfg o))).answer .written)) ∨
    (∃ r, s.hostWrite addr size v = .next (s.answer r)) ∨
    (s.inReset = true ∧ s.hostWrite addr size v = .refused .accessInReset) := by
  unfold State.hostWrite
  split
  · exact .inr (.inl ⟨_, rfl⟩)
  · rename_i o place
    split
    · rename_i h; exact .inr (.inr ⟨h, rfl⟩)
    · rename_i h
      split
      · rename_i aligned
        simp only [busAligned, Bool.and_eq_true, beq_iff_eq] at aligned
        exact .inl ⟨o, by simpa using h, aligned.1, aligned.2, (blockOffset?_some _ _ _).1 place, rfl⟩
      · exact .inr (.inl ⟨_, rfl⟩)

end Sys2Proof.Machine
end

