-- ==== Sys2Proof/Laws/Exec.lean ====
section
/-! SUPPORT. Said once: what running a command, and taking a step, can do. -/

namespace Sys2Proof.Machine

/-- A command commits with writes to its own destinations and its own flags, or it raises an error: nothing else. -/
theorem exec_cases (i : Instr) (s : State) :
    (∃ ws fl, exec i s = s.commit ws fl ∧ ws.map Prod.fst = i.dests ∧
      ((∀ a b, i ≠ .cmp a b) → ∀ o, fl ≠ .compare o) ∧ ((∀ a, i ≠ .tst a) → ∀ v, fl ≠ .zero v)) ∨
    ∃ code, exec i s = s.raise code := by
  cases i with
  | add d a b => exact .inl ⟨_, _, rfl, rfl, by simp, by simp⟩
  | sub d a b => exact .inl ⟨_, _, rfl, rfl, by simp, by simp⟩
  | inc d => exact .inl ⟨_, _, rfl, rfl, by simp, by simp⟩
  | dec d => exact .inl ⟨_, _, rfl, rfl, by simp, by simp⟩
  | mul d a b => exact .inl ⟨_, _, rfl, rfl, by simp, by simp⟩
  | div d a b =>
    by_cases h : s.operand b = 0
    · exact .inr ⟨.divz, by simp [exec, execDiv, h]⟩
    · exact .inl ⟨[(d, _)], .none, by simp only [exec, execDiv, h, if_false]; rfl, rfl, by simp, by simp⟩
  | mod d a b =>
    by_cases h : s.operand b = 0
    · exact .inr ⟨.divz, by simp [exec, execMod, h]⟩
    · exact .inl ⟨[(d, _)], .none, by simp only [exec, execMod, h, if_false]; rfl, rfl, by simp, by simp⟩
  | divmod q r a b =>
    by_cases hqr : q = r
    · exact .inr ⟨.illegal, by simp [exec, execDivmod, hqr]⟩
    · by_cases h : s.operand b = 0
      · exact .inr ⟨.divz, by simp [exec, execDivmod, h, hqr]⟩
      · exact .inl ⟨[(q, _), (r, _)], .none, by simp only [exec, execDivmod, h, hqr, if_false]; rfl, rfl, by simp, by simp⟩
  | and d a b => exact .inl ⟨_, _, rfl, rfl, by simp, by simp⟩
  | or d a b => exact .inl ⟨_, _, rfl, rfl, by simp, by simp⟩
  | xor d a b => exact .inl ⟨_, _, rfl, rfl, by simp, by simp⟩
  | lsh d a k => exact .inl ⟨_, _, rfl, rfl, by simp, by simp⟩
  | rsh d a k => exact .inl ⟨_, _, rfl, rfl, by simp, by simp⟩
  | lshi d a imm => exact .inl ⟨_, _, rfl, rfl, by simp, by simp⟩
  | rshi d a imm => exact .inl ⟨_, _, rfl, rfl, by simp, by simp⟩
  | pow d b e => exact .inl ⟨_, _, rfl, rfl, by simp, by simp⟩
  | powmod d b e m =>
    by_cases h : s.operand m = 0
    · exact .inr ⟨.divz, by simp [exec, execPowmod, h]⟩
    · exact .inl ⟨[(d, _)], .none, by simp only [exec, execPowmod, h, if_false]; rfl, rfl, by simp, by simp⟩
  | cmp a b => exact .inl ⟨_, _, rfl, rfl, by simp, by simp⟩
  | tst a => exact .inl ⟨_, _, rfl, rfl, by simp, by simp⟩
  | mov d a => exact .inl ⟨_, _, rfl, rfl, by simp, by simp⟩
  | li d imm => exact .inl ⟨_, _, rfl, rfl, by simp, by simp⟩

/-- The commit of any word, command or not. -/
theorem State.runWord_cases (s : State) (word : Word) :
    (∃ i, decode word = .ok i ∧ s.runWord word = exec i s) ∨
    (∃ e, decode word = .error e ∧ s.runWord word = s.raise .illegal) := by
  unfold State.runWord
  cases decode word with
  | ok i => exact .inl ⟨i, rfl, rfl⟩
  | error e => exact .inr ⟨e, rfl, rfl⟩

/-- The engine's turn: reset values in reset, a commit when a command is latched, nothing otherwise. -/
theorem State.engineTurn_cases (s : State) :
    (s.inReset = true ∧ s.engineTurn = .next (s.withBlk (Block.reset s.cfg))) ∨
    (s.inReset = false ∧ ∃ l, s.blk.busy = true ∧ s.blk.cur = some l ∧ s.engineTurn = s.runWord l.word) ∨
    (s.inReset = false ∧ (s.blk.busy = false ∨ s.blk.cur = none) ∧ s.engineTurn = .next s) := by
  unfold State.engineTurn
  cases hr : s.inReset with
  | true => simp
  | false =>
    cases hb : s.blk.busy <;> cases hc : s.blk.cur <;> simp

/-- A step is what the next event of the schedule asks for. -/
theorem step_of_schedule (s : State) :
    (s.schedule = [] ∧ step s = s.engineTurn) ∨
    (∃ es, s.schedule = .engine :: es ∧ step s = (s.withSchedule es).engineTurn) ∨
    (∃ addr size es, s.schedule = .read addr size :: es ∧ step s = (s.withSchedule es).hostRead addr size) ∨
    (∃ addr size v es, s.schedule = .write addr size v :: es ∧ step s = (s.withSchedule es).hostWrite addr size v) ∨
    (∃ level es, s.schedule = .resetPin level :: es ∧ step s = .next ((s.withSchedule es).setResetPin level)) := by
  unfold step
  cases h : s.schedule with
  | nil => simp
  | cons e es => cases e <;> simp

/-- The engine's turn, as a part of a step: reset acts, the latched word is run, or the machine is as before. -/
theorem State.engineTurn_next (s t : State) (h : s.engineTurn = .next t) :
    (s.inReset = true ∧ t.blk = Block.reset t.cfg) ∨
    (s.inReset = false ∧ ∃ l, s.blk.busy = true ∧ s.blk.cur = some l ∧ s.runWord l.word = .next t) ∨ t = s := by
  obtain ⟨asserted, turn⟩ | ⟨released, l, busy, cur, turn⟩ | ⟨_, _, turn⟩ := s.engineTurn_cases <;> rw [turn] at h
  · cases h; exact .inl ⟨asserted, rfl⟩
  · exact .inr (.inl ⟨released, l, busy, cur, h⟩)
  · cases h; exact .inr (.inr rfl)

/-- A step at which the engine's turn is next is that turn. -/
theorem step_of_engine (s : State) (next : s.schedule = [] ∨ ∃ es, s.schedule = .engine :: es) :
    ∃ es, step s = (s.withSchedule es).engineTurn := by
  obtain none | ⟨es, engine⟩ := next
  · have same : s.withSchedule [] = s := by rw [State.withSchedule, ← none]
    exact ⟨[], by rw [same, step, none]⟩
  · exact ⟨es, by rw [step, engine]⟩

/-- What a step that answers a next state has done: reset acted, the engine ran the latched word, an aligned 32-bit
write reached its target, or the block is as before. -/
theorem step_next (s t : State) (h : step s = .next t) :
    (s.ResetActs ∧ t.blk = Block.reset t.cfg) ∨
    (s.EngineNext ∧ ∃ l es, s.blk.busy = true ∧ s.blk.cur = some l ∧ (s.withSchedule es).runWord l.word = .next t) ∨
    (∃ (o : BitVec 17) (v : Word) (es : List Event), s.inReset = false ∧ o.toNat % 4 = 0 ∧
      s.schedule = writeAt s.cfg o.toNat v :: es ∧
      t = ((s.withSchedule es).withBlk (s.blk.writeTarget v (targetOf s.cfg o))).answer .written) ∨
    ∃ es r, t = { s with schedule := es, response := r } := by
  by_cases next : s.schedule = [] ∨ ∃ es, s.schedule = .engine :: es
  · obtain ⟨es, e⟩ := step_of_engine s next
    rw [e] at h
    obtain ⟨asserted, same⟩ | ⟨released, l, busy, cur, run⟩ | rfl := State.engineTurn_next _ _ h
    · exact .inl ⟨.inl asserted, same⟩
    · exact .inr (.inl ⟨⟨released, next⟩, l, es, busy, cur, run⟩)
    · exact .inr (.inr (.inr ⟨es, s.response, rfl⟩))
  obtain ⟨none, _⟩ | ⟨es, engine, _⟩ | ⟨addr, size, es, _, e⟩ | ⟨addr, size, v, es, write, e⟩ | ⟨level, es, pin, e⟩ :=
    step_of_schedule s
  · exact absurd (.inl none) next
  · exact absurd (.inr ⟨es, engine⟩) next
  all_goals rw [e] at h
  · obtain ⟨r, e⟩ | ⟨_, e⟩ := State.hostRead_cases (s.withSchedule es) addr size <;> rw [e] at h <;> cases h
    exact .inr (.inr (.inr ⟨es, some r, rfl⟩))
  · obtain ⟨o, released, rfl, aligned, rfl, e⟩ | ⟨r, e⟩ | ⟨_, e⟩ :=
      State.hostWrite_cases (s.withSchedule es) addr size v <;> rw [e] at h <;> cases h
    · exact .inr (.inr (.inl ⟨o, v, es, released, aligned, write, rfl⟩))
    · exact .inr (.inr (.inr ⟨es, some r, rfl⟩))
  · cases h
    obtain ⟨rfl | asserted, e⟩ | ⟨_, _, e⟩ := State.setResetPin_cases (s.withSchedule es) level <;> rw [e]
    · exact .inl ⟨.inr ⟨es, pin⟩, rfl⟩
    · exact .inl ⟨.inl asserted, rfl⟩
    · exact .inr (.inr (.inr ⟨es, s.response, rfl⟩))

end Sys2Proof.Machine
end

