-- ==== Sys2Proof/Laws/Limbs.lean ====
section
/-! SUPPORT. The limb view: sizes, the value of a limb, and that a value is the number its limbs spell (00_scope.md R6). -/

namespace Sys2Proof

theorem Config.W_pos (c : Config) : 0 < c.W := by
  cases c with | mk lw n base valid => cases lw <;> simp [Config.W, LimbWidth.bits]

theorem Config.W_le (c : Config) : c.W ≤ 64 := by
  cases c with | mk lw n base valid => cases lw <;> simp [Config.W, LimbWidth.bits]

theorem Config.N_pos (c : Config) : 0 < c.N := c.valid.1

theorem Config.B_eq (c : Config) : c.B = c.W * c.N := rfl

theorem Config.B_mod (c : Config) : c.B % 32 = 0 := c.valid.2.1

theorem Config.B_ge (c : Config) : 32 ≤ c.B := c.valid.2.2.1

theorem Config.B_le (c : Config) : c.B ≤ 32768 := c.valid.2.2.2

theorem Config.B_pos (c : Config) : 0 < c.B := Nat.lt_of_lt_of_le (by decide) c.B_ge

namespace Machine

theorem limb_eq {c : Config} (v : c.Value) (j : Nat) : limb v j = v.toNat / 2 ^ (c.W * j) % 2 ^ c.W := by
  simp [limb, BitVec.extractLsb'_toNat, Nat.shiftRight_eq_div_pow]

theorem limb_lt {c : Config} (v : c.Value) (j : Nat) : limb v j < 2 ^ c.W := by
  rw [limb_eq]; exact Nat.mod_lt _ (Nat.two_pow_pos _)

theorem limbs_length {c : Config} (v : c.Value) : (limbs v).length = c.N := by simp [limbs, limbIndices]

theorem limbs_getElem {c : Config} (v : c.Value) (j : Nat) (h : j < (limbs v).length) : (limbs v)[j] = limb v j := by
  simp [limbs, limbIndices]

theorem limbs_lt {c : Config} (v : c.Value) : ∀ l ∈ limbs v, l < 2 ^ c.W := by
  simp only [limbs, List.mem_map, forall_exists_index, and_imp]
  rintro l j - rfl
  exact limb_lt v j

/-- The limbs of `x` below index `n`, joined, are `x` reduced to `n` limbs. -/
theorem joinLimbs_digits (w x n : Nat) :
    joinLimbs w ((List.range n).map fun j => x / 2 ^ (w * j) % 2 ^ w) = x % 2 ^ (w * n) := by
  induction n generalizing x with
  | zero => simp [joinLimbs, Nat.mod_one]
  | succ n ih =>
    have tail : ((List.range n).map (Nat.succ)).map (fun j => x / 2 ^ (w * j) % 2 ^ w) =
        (List.range n).map fun j => x / 2 ^ w / 2 ^ (w * j) % 2 ^ w := by
      simp [Function.comp_def, Nat.div_div_eq_div_mul, ← Nat.pow_add, Nat.mul_succ, Nat.add_comm]
    rw [List.range_succ_eq_map, List.map_cons, joinLimbs, tail, ih]
    have split := Nat.mod_mul (x := x) (a := 2 ^ w) (b := 2 ^ (w * n))
    rw [← Nat.pow_add] at split
    rw [show w * (n + 1) = w + w * n by ring, split]
    simp

theorem joinLimbs_limbs {c : Config} (v : c.Value) : joinLimbs c.W (limbs v) = v.toNat := by
  have digits := joinLimbs_digits c.W v.toNat c.N
  simp only [← limb_eq] at digits
  rw [limbs, limbIndices, digits]
  exact Nat.mod_eq_of_lt v.isLt

/-- A value is the number its limbs spell. -/
theorem ofLimbs_limbs {c : Config} (v : c.Value) : (ofLimbs (limbs v) : c.Value) = v := by
  rw [ofLimbs, joinLimbs_limbs, BitVec.ofNat_toNat, BitVec.setWidth_eq]

theorem joinLimbs_lt (w : Nat) (ls : List Nat) (h : ∀ l ∈ ls, l < 2 ^ w) : joinLimbs w ls < 2 ^ (w * ls.length) := by
  induction ls with
  | nil => simp [joinLimbs]
  | cons l ls ih =>
    have hl : l < 2 ^ w := h l (by simp)
    have hr := ih fun x hx => h x (by simp [hx])
    rw [joinLimbs, List.length_cons, show w * (ls.length + 1) = w + w * ls.length by ring, Nat.pow_add]
    nlinarith [Nat.two_pow_pos w]

theorem ofLimbs_toNat {c : Config} (ls : List Nat) : (ofLimbs ls : c.Value).toNat = joinLimbs c.W ls % 2 ^ c.B := by
  simp [ofLimbs]

/-- Strict evaluation changes no value. -/
@[simp] theorem strictly_eq {n : Nat} {α : Type} (v : BitVec n) (f : BitVec n → α) : strictly v f = f v := by
  unfold strictly
  split <;> rename_i h <;> refine congrArg f (BitVec.eq_of_toNat_eq ?_)
  · rw [h]; simp
  · rw [BitVec.toNat_ofNat, ← Nat.succ_eq_add_one, ← h, Nat.mod_eq_of_lt v.isLt]

end Machine

end Sys2Proof
end

