-- ==== Sys2Proof/Laws/PerInstr.lean ====
section
/-! SUPPORT. Facts made per command, one lemma for each constructor. -/

namespace Sys2Proof

theorem opField_packRegs (op : BitVec 8) (a b c d : Reg) : opField (packRegs op a b c d) = op := by
  apply BitVec.eq_of_getLsbD_eq
  intro i hi
  simp only [opField, packRegs, BitVec.getLsbD_extractLsb', BitVec.getLsbD_append]
  have h1 : ¬ 24 + i < 8 := by omega
  have h2 : ¬ 24 + i - 8 < 4 := by omega
  have h3 : ¬ 24 + i - 8 - 4 < 4 := by omega
  have h4 : ¬ 24 + i - 8 - 4 - 4 < 4 := by omega
  have h5 : ¬ 24 + i - 8 - 4 - 4 - 4 < 4 := by omega
  simp only [h1, h2, h3, h4, h5, if_false, hi, decide_true, Bool.true_and]
  congr 1
  omega

theorem opField_packImm (op : BitVec 8) (a b : Reg) (imm : BitVec 16) : opField (packImm op a b imm) = op := by
  apply BitVec.eq_of_getLsbD_eq
  intro i hi
  simp only [opField, packImm, BitVec.getLsbD_extractLsb', BitVec.getLsbD_append]
  have h1 : ¬ 24 + i < 16 := by omega
  have h2 : ¬ 24 + i - 16 < 4 := by omega
  have h3 : ¬ 24 + i - 16 - 4 < 4 := by omega
  simp only [h1, h2, h3, if_false, hi, decide_true, Bool.true_and]
  congr 1
  omega

/-- The opcode stands in bits 31:24 of every command's word (30_encoding.md R71, R73). -/
def Laws.OpcodeInPlace.Statement (i : Instr) : Prop := opField (encode i) = i.opcode

theorem Laws.OpcodeInPlace.add (d a b : Reg) : Laws.OpcodeInPlace.Statement (.add d a b) :=
  opField_packRegs _ _ _ _ _

theorem Laws.OpcodeInPlace.sub (d a b : Reg) : Laws.OpcodeInPlace.Statement (.sub d a b) :=
  opField_packRegs _ _ _ _ _

theorem Laws.OpcodeInPlace.inc (d : Reg) : Laws.OpcodeInPlace.Statement (.inc d) :=
  opField_packRegs _ _ _ _ _

theorem Laws.OpcodeInPlace.dec (d : Reg) : Laws.OpcodeInPlace.Statement (.dec d) :=
  opField_packRegs _ _ _ _ _

theorem Laws.OpcodeInPlace.mul (d a b : Reg) : Laws.OpcodeInPlace.Statement (.mul d a b) :=
  opField_packRegs _ _ _ _ _

theorem Laws.OpcodeInPlace.div (d a b : Reg) : Laws.OpcodeInPlace.Statement (.div d a b) :=
  opField_packRegs _ _ _ _ _

theorem Laws.OpcodeInPlace.mod (d a b : Reg) : Laws.OpcodeInPlace.Statement (.mod d a b) :=
  opField_packRegs _ _ _ _ _

theorem Laws.OpcodeInPlace.divmod (q r a b : Reg) : Laws.OpcodeInPlace.Statement (.divmod q r a b) :=
  opField_packRegs _ _ _ _ _

theorem Laws.OpcodeInPlace.and (d a b : Reg) : Laws.OpcodeInPlace.Statement (.and d a b) :=
  opField_packRegs _ _ _ _ _

theorem Laws.OpcodeInPlace.or (d a b : Reg) : Laws.OpcodeInPlace.Statement (.or d a b) :=
  opField_packRegs _ _ _ _ _

theorem Laws.OpcodeInPlace.xor (d a b : Reg) : Laws.OpcodeInPlace.Statement (.xor d a b) :=
  opField_packRegs _ _ _ _ _

theorem Laws.OpcodeInPlace.lsh (d a k : Reg) : Laws.OpcodeInPlace.Statement (.lsh d a k) :=
  opField_packRegs _ _ _ _ _

theorem Laws.OpcodeInPlace.rsh (d a k : Reg) : Laws.OpcodeInPlace.Statement (.rsh d a k) :=
  opField_packRegs _ _ _ _ _

theorem Laws.OpcodeInPlace.lshi (d a : Reg) (imm : BitVec 16) : Laws.OpcodeInPlace.Statement (.lshi d a imm) :=
  opField_packImm _ _ _ _

theorem Laws.OpcodeInPlace.rshi (d a : Reg) (imm : BitVec 16) : Laws.OpcodeInPlace.Statement (.rshi d a imm) :=
  opField_packImm _ _ _ _

theorem Laws.OpcodeInPlace.pow (d b e : Reg) : Laws.OpcodeInPlace.Statement (.pow d b e) :=
  opField_packRegs _ _ _ _ _

theorem Laws.OpcodeInPlace.powmod (d b e m : Reg) : Laws.OpcodeInPlace.Statement (.powmod d b e m) :=
  opField_packRegs _ _ _ _ _

theorem Laws.OpcodeInPlace.cmp (a b : Reg) : Laws.OpcodeInPlace.Statement (.cmp a b) :=
  opField_packRegs _ _ _ _ _

theorem Laws.OpcodeInPlace.tst (a : Reg) : Laws.OpcodeInPlace.Statement (.tst a) :=
  opField_packRegs _ _ _ _ _

theorem Laws.OpcodeInPlace.mov (d a : Reg) : Laws.OpcodeInPlace.Statement (.mov d a) :=
  opField_packRegs _ _ _ _ _

theorem Laws.OpcodeInPlace.li (d : Reg) (imm : BitVec 16) : Laws.OpcodeInPlace.Statement (.li d imm) :=
  opField_packImm _ _ _ _

end Sys2Proof
end

