-- ==== Sys2Proof/Tests/Slice0.lean ====
section
/-! SUPPORT. The model's own tests. Decode tests: words written out field by field from 30_encoding.md R71, R73.
Execution tests: the vectors of 95_test_vectors.md, whose ids their names carry. Witnesses: for each statement with
hypotheses, a concrete state and operands that meet them. -/

set_option Elab.async false

namespace Sys2Proof.Tests

open Sys2Proof Sys2Proof.Machine

/-! ## States the tests start from -/

/-- W = 32, N = 2 (95_test_vectors.md C32), at platform address 0. -/
def c32 : Config := Config.example32x2

/-- W = 8, N = 4 (95_test_vectors.md C8), at platform address 0x4000. -/
def c8 : Config := ⟨.w8, 4, 0x4000, by decide⟩

/-- W = 32, N = 1: the same B as C8. -/
def c1x32 : Config := ⟨.w32, 1, 0, by decide⟩

/-- W = 32, N = 3: B = 96, RSTRIDE = 16 (95_test_vectors.md V-BUS-11). -/
def c96 : Config := ⟨.w32, 3, 0, by decide⟩

/-- W = 64, N = 2 (95_test_vectors.md C128). -/
def c128 : Config := ⟨.w64, 2, 0, by decide⟩

/-- W = 64, N = 512: the largest B. -/
def cMax : Config := ⟨.w64, 512, 0, by decide⟩

/-- After reset, with registers loaded and events to come. -/
def idle (c : Config) (rs : List (Reg × Nat)) (es : List Event) : State :=
  ((State.resetOf c).withBlk
    { Block.reset c with x := writeRegs (Block.reset c).x (rs.map fun p => (p.1, BitVec.ofNat c.B p.2)) }).withSchedule es

/-- The same with a command running and the engine's turn next. -/
def running (c : Config) (rs : List (Reg × Nat)) (w : Nat) : State := (idle c rs []).withFetchWord 32 w

/-- The same with a command running and other events next. -/
def busyThen (c : Config) (rs : List (Reg × Nat)) (w : Nat) (es : List Event) : State :=
  (running c rs w).withSchedule es

/-- A block with a recorded error. -/
def inError (s : State) : State := s.withBlk { s.blk with err := true, errCode := .divz, errCmd := 0x06312000#32 }

/-- A register after one step. -/
def regAfter (s : State) (r : Reg) : Option Nat :=
  match step s with
  | .next t => some (t.blk.reg r).toNat
  | .fault _ => none
  | .refused _ => none

/-- STATUS after one step. -/
def statusAfter (s : State) : Option Word :=
  match step s with
  | .next t => some t.blk.statusWord
  | .fault _ => none
  | .refused _ => none

/-- ERRCMD after one step. -/
def errCmdAfter (s : State) : Option Word :=
  match step s with
  | .next t => some t.blk.errCmd
  | .fault _ => none
  | .refused _ => none

/-- The answer to a host access. -/
def answerAfter (s : State) : Option Response :=
  match step s with
  | .next t => t.response
  | .fault _ => none
  | .refused _ => none

/-- One step answers a next state. -/
def goesOn (s : State) : Bool :=
  match step s with
  | .next _ => true
  | .fault _ => false
  | .refused _ => false

/-! ## Well-formedness and decoding -/

theorem test_wf_refuses_divmod_with_equal_destinations : (Instr.divmod 3 3 1 2).wf = false := by decide

theorem test_wf_accepts_divmod_with_two_destinations : (Instr.divmod 3 4 1 2).wf = true := by decide

theorem test_decode_refuses_divmod_with_equal_destinations :
    decode 0x08312300#32 = .error .divmodSameDestinations := by decide

theorem test_decode_refuses_fixed_bit : decode 0x01123001#32 = .error .nonzeroFixedField := by decide

theorem test_decode_refuses_field_b_of_li : decode 0x15310000#32 = .error .nonzeroFixedField := by decide

theorem test_decode_refuses_field_a_of_cmp : decode 0x12112000#32 = .error .nonzeroFixedField := by decide

theorem test_decode_refuses_opcode_zero : decode 0x00000000#32 = .error .reservedOpcode := by decide

theorem test_decode_refuses_opcode_16 : decode 0x16000000#32 = .error .reservedOpcode := by decide

theorem test_decode_refuses_opcode_ff : decode 0xFF000000#32 = .error .reservedOpcode := by decide

theorem test_decode_add : decode 0b00000001_0001_0010_0011_0000_00000000#32 = .ok (.add 1 2 3) := by decide

theorem test_decode_sub : decode 0b00000010_0011_0001_0010_0000_00000000#32 = .ok (.sub 3 1 2) := by decide

theorem test_decode_inc : decode 0b00000011_1111_0000_0000_0000_00000000#32 = .ok (.inc 15) := by decide

theorem test_decode_dec : decode 0b00000100_0001_0000_0000_0000_00000000#32 = .ok (.dec 1) := by decide

theorem test_decode_mul : decode 0b00000101_0011_0001_0010_0000_00000000#32 = .ok (.mul 3 1 2) := by decide

theorem test_decode_div : decode 0b00000110_0011_0001_0010_0000_00000000#32 = .ok (.div 3 1 2) := by decide

theorem test_decode_mod : decode 0b00000111_0011_0001_0010_0000_00000000#32 = .ok (.mod 3 1 2) := by decide

theorem test_decode_divmod : decode 0b00001000_0011_0001_0010_0100_00000000#32 = .ok (.divmod 3 4 1 2) := by decide

theorem test_decode_and : decode 0b00001001_0011_0001_0010_0000_00000000#32 = .ok (.and 3 1 2) := by decide

theorem test_decode_or : decode 0b00001010_0011_0001_0010_0000_00000000#32 = .ok (.or 3 1 2) := by decide

theorem test_decode_xor : decode 0b00001011_0011_0001_0010_0000_00000000#32 = .ok (.xor 3 1 2) := by decide

theorem test_decode_lsh : decode 0b00001100_0011_0001_0010_0000_00000000#32 = .ok (.lsh 3 1 2) := by decide

theorem test_decode_rsh : decode 0b00001101_0011_0001_0010_0000_00000000#32 = .ok (.rsh 3 1 2) := by decide

theorem test_decode_lshi : decode 0b00001110_0011_0001_1111111111111111#32 = .ok (.lshi 3 1 65535) := by decide

theorem test_decode_rshi : decode 0b00001111_0011_0001_0000000000100100#32 = .ok (.rshi 3 1 36) := by decide

theorem test_decode_pow : decode 0b00010000_0011_0001_0010_0000_00000000#32 = .ok (.pow 3 1 2) := by decide

theorem test_decode_powmod : decode 0b00010001_0101_0001_0010_0011_00000000#32 = .ok (.powmod 5 1 2 3) := by decide

theorem test_decode_cmp : decode 0b00010010_0000_0001_0010_0000_00000000#32 = .ok (.cmp 1 2) := by decide

theorem test_decode_tst : decode 0b00010011_0000_0010_0000_0000_00000000#32 = .ok (.tst 2) := by decide

theorem test_decode_mov : decode 0b00010100_0001_0010_0000_0000_00000000#32 = .ok (.mov 1 2) := by decide

theorem test_decode_li : decode 0b00010101_0011_0000_0000110010100001#32 = .ok (.li 3 3233) := by decide

/-! ## Encoding -/

theorem test_encode_divmod_places_d : encode (.divmod 3 4 1 2) = 0x08312400#32 := by decide

theorem test_encode_rshi_places_imm : encode (.rshi 3 1 36) = 0x0F310024#32 := by decide

/-! ## Assembly (30_encoding.md R77, R78; words from 95_test_vectors.md P1, P2) -/

theorem test_assemble_powmod : assembleWord "POWMOD x5, x1, x2, x3 ; C".toList = some 0x11512300#32 := by decide +kernel

theorem test_assemble_refuses_large_immediate : assembleWord "LI x3, 65536".toList = none := by decide +kernel

theorem test_assemble_hex_immediate : assembleWord "LI x4, 0x19D".toList = some 0x1540019D#32 := by decide +kernel

theorem test_assemble_sqr : assembleWord "SQR x1, x1".toList = some 0x05111000#32 := by decide +kernel

theorem test_assemble_labelled_line :
    assembleWord " 5: POWMOD x5, x1, x2, x3        ; 0x11512300  C = M^E mod N".toList = some 0x11512300#32 := by
  decide +kernel

theorem test_parse_host_loop :
    parseLine " 6: HOST: repeat from 3 if Z = 0".toList = some ⟨some 6, .repeatUnlessZero 3⟩ := by decide +kernel

/-! ## Commands (95_test_vectors.md part L2) -/

theorem test_V_ADD_2_carry : regAfter (running c32 [(2, 0xFFFFFFFF), (3, 1)] 0x01123000) 1 = some 0x100000000 := by decide +kernel

theorem test_V_ADD_6_byte_limbs : regAfter (running c8 [(1, 0x12FF34FF), (2, 0x10001)] 0x01312000) 3 = some 0x13003500 := by decide +kernel

theorem test_V_SUB_2_wraps : regAfter (running c32 [(1, 0), (2, 1)] 0x02312000) 3 = some 0xFFFFFFFFFFFFFFFF := by decide +kernel

theorem test_V_SUB_6_byte_limbs : regAfter (running c8 [(1, 0x12003400), (2, 0x10001)] 0x02312000) 3 = some 0x11FF33FF := by decide +kernel

theorem test_V_ADD_8_inc_max : regAfter (running c32 [(1, 0xFFFFFFFFFFFFFFFF)] 0x03100000) 1 = some 0 := by decide +kernel

theorem test_V_ADD_9_inc_carries : regAfter (running c32 [(1, 0xFFFFFFFF)] 0x03100000) 1 = some 0x100000000 := by decide +kernel

theorem test_V_SUB_8_dec_zero : regAfter (running c32 [(1, 0)] 0x04100000) 1 = some 0xFFFFFFFFFFFFFFFF := by decide +kernel

theorem test_V_SUB_9_dec_borrows : regAfter (running c32 [(1, 0x100000000)] 0x04100000) 1 = some 0xFFFFFFFF := by decide +kernel

theorem test_V_MUL_7_square_truncates : regAfter (running c32 [(1, 0x123456789)] 0x05111000) 1 = some 0x4B66DC326FB98751 := by decide +kernel

theorem test_V_MUL_8_byte_limbs : regAfter (running c8 [(1, 0xFFFF), (2, 0xFFFF)] 0x05312000) 3 = some 0xFFFE0001 := by decide +kernel

theorem test_V_DIV_1 : regAfter (running c32 [(1, 0xFFFFFFFF), (2, 0x10000)] 0x06312000) 3 = some 0xFFFF := by decide +kernel

theorem test_V_DIV_2_mod : regAfter (running c32 [(1, 8), (2, 3)] 0x07312000) 3 = some 2 := by decide +kernel

theorem test_V_DIV_5_wide_remainder : regAfter (running c32 [(1, 0xFFFFFFFFFFFFFFFF), (2, 0x8000000000000001)] 0x08312400) 4 = some 0x7FFFFFFFFFFFFFFE := by decide +kernel

theorem test_V_DIV_15_destinations_alias_sources : regAfter (running c32 [(1, 0x64), (2, 7)] 0x08112200) 2 = some 2 := by decide +kernel

theorem test_V_BIT_2_and : regAfter (running c32 [(1, 0xF0F0F0F0F0F0F0F0), (2, 0xFF00FF00FF00FF00)] 0x09312000) 3 = some 0xF000F000F000F000 := by decide +kernel

theorem test_V_BIT_3_or : regAfter (running c32 [(1, 0xF0F0F0F0F0F0F0F0), (2, 0xFF00FF00FF00FF00)] 0x0A312000) 3 = some 0xFFF0FFF0FFF0FFF0 := by decide +kernel

theorem test_V_BIT_4_xor : regAfter (running c32 [(1, 0xF0F0F0F0F0F0F0F0), (2, 0xFF00FF00FF00FF00)] 0x0B312000) 3 = some 0x0FF00FF00FF00FF0 := by decide +kernel

theorem test_V_SH_3_lsh_by_w : regAfter (running c32 [(1, 0xFFFFFFFF), (2, 0x20)] 0x0C312000) 3 = some 0xFFFFFFFF00000000 := by decide +kernel

theorem test_V_SH_7_lsh_by_b : regAfter (running c32 [(1, 0xFFFFFFFFFFFFFFFF), (2, 0x40)] 0x0C312000) 3 = some 0 := by decide +kernel

theorem test_V_SH_6_rsh_by_w : regAfter (running c128 [(1, 0x0123456789ABCDEFFEDCBA9876543210), (2, 0x40)] 0x0D312000) 3 = some 0x0123456789ABCDEF := by decide +kernel

theorem test_V_SH_8_rsh_huge_count : regAfter (running c32 [(1, 0xFFFFFFFFFFFFFFFF), (2, 0x8000000000000000)] 0x0D312000) 3 = some 0 := by decide +kernel

theorem test_V_SH_14_lshi_byte_limbs : regAfter (running c8 [(1, 0x12345678)] 0x0E31000C) 3 = some 0x45678000 := by decide +kernel

theorem test_V_SH_10_rshi : regAfter (running c32 [(1, 0x0123456789ABCDEF)] 0x0F310024) 3 = some 0x123456 := by decide +kernel

theorem test_V_PW_2_zero_to_zero : regAfter (running c8 [(1, 0), (2, 0)] 0x10312000) 3 = some 1 := by decide +kernel

theorem test_V_PW_1 : regAfter (running c8 [(1, 3), (2, 5)] 0x10312000) 3 = some 243 := by decide +kernel

theorem test_V_PM_14_rsa : regAfter (running c8 [(1, 65), (2, 17), (3, 3233)] 0x11512300) 5 = some 2790 := by decide +kernel

theorem test_V_PM_4_modulus_one : regAfter (running c8 [(1, 5), (2, 0), (3, 1)] 0x11512300) 5 = some 0 := by decide +kernel

theorem test_V_MV_7_cmp_gt : statusAfter (running c32 [(1, 0x100000000), (2, 0xFFFFFFFF)] 0x12012000) = some 0x00000042#32 := by decide +kernel

theorem test_V_MV_11_cmp_unsigned : statusAfter (running c32 [(1, 0), (2, 0xFFFFFFFFFFFFFFFF)] 0x12012000) = some 0x00000022#32 := by decide +kernel

theorem test_V_MV_12_tst_top_limb : statusAfter (running c32 [(2, 0x8000000000000000)] 0x13020000) = some 0x00000002#32 := by decide +kernel

theorem test_V_MV_13_tst_zero : statusAfter (running c32 [] 0x13020000) = some 0x00000082#32 := by decide +kernel

theorem test_V_MV_1_mov : regAfter (running c32 [(2, 0x500000007)] 0x14120000) 1 = some 0x500000007 := by decide +kernel

theorem test_V_MV_3_li_clears_upper_bits : regAfter (running c32 [(3, 0xFFFFFFFFFFFFFFFF)] 0x15300CA1) 3 = some 0xCA1 := by decide +kernel

theorem test_V_DIV_10_divz : statusAfter (running c32 [(1, 7)] 0x06312000) = some 0x00000206#32 := by decide +kernel

theorem test_V_DIV_14_illegal_before_divz : statusAfter (running c32 [(1, 7)] 0x08312300) = some 0x00000106#32 := by decide +kernel

theorem test_V_PM_12_modulus_zero : statusAfter (running c32 [(1, 65), (2, 17)] 0x11512300) = some 0x00000206#32 := by decide +kernel

theorem test_V_ENC_1_errcmd : errCmdAfter (running c32 [] 0x01123001) = some 0x01123001#32 := by decide +kernel

/-! ## Host accesses (95_test_vectors.md V-ERR, V-BUS, V-RST) -/

theorem test_V_ERR_2_discarded :
    statusAfter ((inError (idle c32 [] [])).withSchedule [cmdWrite c32 0x15400001#32]) = some 0x00000204#32 := by
  decide +kernel

theorem test_V_ERR_3_overrun :
    statusAfter (busyThen c32 [] 0x11512300 [cmdWrite c32 0x15600001#32]) = some 0x00000305#32 := by decide +kernel

theorem test_V_ERR_4_window_overrun :
    regAfter (busyThen c32 [(1, 9)] 0x11512300 [writeAt c32 0x10008 5#32]) 1 = some 9 := by decide +kernel

theorem test_V_ERR_7_errclr :
    statusAfter ((inError (idle c32 [] [])).withSchedule [writeAt c32 0x8 1#32]) = some 0#32 := by decide +kernel

/-- CTRL, as the host reads it, after one step. -/
def ctrlAfter (s : State) : Option Word :=
  match step s with
  | .next t => some t.blk.ctrlWord
  | .fault _ => none
  | .refused _ => none

/-- IE = 1, DONE = 1 and DIVZ recorded, with a CTRL write next. -/
def irqRaised (v : Word) : State :=
  let s := inError (idle c32 [] [writeAt c32 0x8 v])
  s.withBlk { s.blk with ie := true, done := true }

theorem test_V_ERR_7_errclr_leaves_ie :
    ctrlAfter (irqRaised 1#32) = some 4#32 ∧ statusAfter (irqRaised 1#32) = some 2#32 := by decide +kernel

theorem test_V_ERR_8_doneclr_with_ie : ctrlAfter (irqRaised 6#32) = some 4#32 := by decide +kernel

/-- 10_state.md R29: IE is read/write; 60_exceptions.md R227, R228: the record and DONE stay. -/
theorem test_ctrl_write_clears_ie :
    ctrlAfter (irqRaised 0#32) = some 0#32 ∧ statusAfter (irqRaised 0#32) = some 0x206#32 := by decide +kernel

/-- 10_state.md R29: one write sets both action bits and changes IE. -/
theorem test_ctrl_three_effects_together :
    ctrlAfter (inError (idle c32 [] [writeAt c32 0x8 7#32])) = some 4#32 ∧
    statusAfter (inError (idle c32 [] [writeAt c32 0x8 7#32])) = some 0#32 := by decide +kernel

theorem test_V_BUS_1_config : answerAfter (idle c32 [] [readAt c32 0xC]) = some (.data 0x10000220#32) := by decide +kernel

theorem test_V_BUS_6_misaligned : answerAfter (idle c32 [] [readAt c32 0x10009]) = some .busError := by decide +kernel

theorem test_V_BUS_7_narrow : answerAfter (idle c32 [] [.write 4 2 5#32]) = some .busError := by decide +kernel

theorem test_V_BUS_8_high_word :
    answerAfter (idle c32 [(1, 0x0123456789ABCDEF)] [readAt c32 0x1000C]) = some (.data 0x01234567#32) := by
  decide +kernel

theorem test_V_BUS_11_tail : answerAfter (idle c96 [(1, 5)] [readAt c96 0x1000C]) = some (.data 0#32) := by
  decide +kernel

theorem test_window_write_little_endian :
    regAfter (idle c32 [] [writeAt c32 0x1000C 0x01234567#32]) 1 = some 0x0123456700000000 := by decide +kernel

theorem test_outside_the_block : answerAfter (idle c8 [] [.read 0x3FFC 4]) = some .elsewhere := by decide +kernel

theorem test_V_RST_2_reset_aborts :
    regAfter (busyThen c32 [(5, 9)] 0x11512300 [.resetPin true]) 5 = some 0 := by decide +kernel

/-! ## Witnesses: the hypotheses of each statement are met -/

/-- ADD running, engine next. -/
def addRunning : State := running c32 [(1, 80), (2, 20)] 0x01312000

/-- DIV by zero running, engine next. -/
def divByZero : State := running c32 [(1, 7)] 0x06312000

/-- DIV by 3 running, engine next. -/
def divByThree : State := running c32 [(1, 7), (2, 3)] 0x06312000

/-- An illegal word running, engine next. -/
def illegalRunning : State := running c32 [] 0x16000000

theorem witness_DecodeOfEncodeIsTheCommand : (Instr.divmod 0 15 1 2).wf = true ∧ (Instr.li 15 0xFFFF).wf = true := by
  decide

theorem witness_EncodeOfDecodeIsTheWord : decode 0x0831F400#32 = .ok (.divmod 3 4 1 15) := by decide

theorem witness_DecodingFollowsTheOpcodeMap_command :
    addRunning.inReset = false ∧ addRunning.blk.busy = true ∧
    addRunning.blk.cur = some ⟨0x01312000#32, addRunning.blk.x⟩ ∧ decode 0x01312000#32 = .ok (.add 3 1 2) := by
  decide +kernel

theorem witness_DecodingFollowsTheOpcodeMap_illegal :
    illegalRunning.inReset = false ∧ illegalRunning.blk.busy = true ∧
    illegalRunning.blk.cur = some ⟨0x16000000#32, illegalRunning.blk.x⟩ ∧
    decode 0x16000000#32 = .error .reservedOpcode := by decide +kernel

theorem witness_ReservedOpcodesAreIllegal :
    (opField 0x00FFFFFF#32).toNat = 0 ∧ 0x16 ≤ (opField 0x16000000#32).toNat ∧ 0x16 ≤ (opField 0xFF000000#32).toNat ∧
    illegalRunning.blk.cur = some ⟨0x16000000#32, illegalRunning.blk.x⟩ := by decide +kernel

theorem witness_StepRunsTheLatchedCommand :
    addRunning.inReset = false ∧ addRunning.blk.busy = true ∧
    addRunning.blk.cur = some ⟨0x01312000#32, addRunning.blk.x⟩ ∧ decode 0x01312000#32 = .ok (.add 3 1 2) ∧
    addRunning.schedule = [.engine] ∧ (addRunning.withSchedule []).schedule = [] := by decide +kernel

theorem witness_IllegalWordOnlyRecordsTheError :
    illegalRunning.inReset = false ∧ illegalRunning.blk.busy = true ∧
    illegalRunning.blk.cur = some ⟨0x16000000#32, illegalRunning.blk.x⟩ ∧
    decode 0x16000000#32 = .error .reservedOpcode ∧ illegalRunning.schedule = [.engine] := by decide +kernel

theorem witness_LongDivisionIsExact :
    (0xFF#8 ≠ 0) ∧ ((0#8, 0xFE#9).2.toNat < (0xFF#8).toNat) := by decide

theorem witness_DivAndModCommitQuotientAndRemainder_divides : divByThree.operand 2 ≠ 0 := by decide +kernel

theorem witness_DivAndModCommitQuotientAndRemainder_zero :
    divByZero.blk.cur = some ⟨0x06312000#32, divByZero.blk.x⟩ ∧ divByZero.operand 2 = 0 := by decide +kernel

theorem witness_DivmodCommitsBothResults :
    ((3 : Reg) ≠ 4 ∧ divByThree.operand 2 ≠ 0) ∧ ((3 : Reg) = 3) ∧
    (divByZero.blk.cur = some ⟨0x06312000#32, divByZero.blk.x⟩ ∧ (3 : Reg) ≠ 4 ∧ divByZero.operand 2 = 0) := by
  decide +kernel

theorem witness_ZeroDivisorOnlyRecordsTheError :
    divByZero.inReset = false ∧ divByZero.blk.busy = true ∧
    divByZero.blk.cur = some ⟨0x06312000#32, divByZero.blk.x⟩ ∧ decode 0x06312000#32 = .ok (.div 3 1 2) ∧
    (Instr.div 3 1 2).divisor? = some 2 ∧ readReg divByZero.blk.x 2 = 0 ∧ divByZero.schedule = [.engine] := by
  decide +kernel

theorem witness_PowmodCommitsTheTruncatedIteration :
    divByThree.operand 2 ≠ 0 ∧ divByZero.blk.cur = some ⟨0x06312000#32, divByZero.blk.x⟩ ∧ divByZero.operand 2 = 0 := by
  decide +kernel

theorem witness_PowmodIsExactUnderTheCondition :
    (idle c32 [(3, 2 ^ 32)] []).operand 3 ≠ 0 ∧ (((idle c32 [(3, 2 ^ 32)] []).operand 3).toNat - 1) ^ 2 < 2 ^ c32.B ∧
    (idle c32 [(3, 1)] []).operand 3 ≠ 0 ∧ (((idle c32 [(3, 1)] []).operand 3).toNat - 1) ^ 2 < 2 ^ c32.B := by
  decide +kernel

theorem witness_PowmodRoundTripUnderTheCondition :
    0 < (3233#64).toNat ∧ (3233#64).toNat ≤ 2 ^ (c32.B / 2) ∧
    (65#64).toNat ^ ((17#64).toNat * (413#64).toNat) % (3233#64).toNat = (65#64).toNat := by decide +kernel

theorem witness_CarryChainLaws : c8.B = c1x32.B ∧ (0xFFFFFFFF#32).toNat = (0xFFFFFFFF#32).toNat := by decide

theorem witness_DivisionLaws : (1#64) ≠ 0 := by decide

theorem witness_ShifterLaws :
    ((1#64).toNat < 2 ^ (c32.B - 63) ∧ 63 ≤ c32.B) ∧ ((0#64).toNat < 2 ^ (c32.B - 64) ∧ 64 ≤ c32.B) ∧ 63 < c32.B ∧
    ((idle c32 [(2, 65535)] []).operand 2).toNat = (65535#16).toNat := by decide +kernel

theorem witness_ExponentiationLaws :
    (2#64).toNat + (3#64).toNat < 2 ^ c32.B ∧
    (0 < (497#64).toNat ∧ (497#64).toNat ≤ 2 ^ (c32.B / 2) ∧ (4#64).toNat ^ (13#64).toNat < 2 ^ c32.B) := by
  decide +kernel

theorem witness_CommandsChangeOnlyWhatTheirRuleWrites :
    (∃ t, exec (.add 3 1 2) addRunning = .next t) ∧ (2 : Reg) ∉ (Instr.add 3 1 2).dests ∧
    (∀ r ∈ (Instr.add 3 1 2).dests, ¬ isRegByte addRunning.cfg r 0x10017) ∧
    (∀ r ∈ (Instr.add 3 1 2).dests, ¬ isRegByte addRunning.cfg r 0x10020) ∧
    (∀ a b, Instr.add 3 1 2 ≠ .cmp a b) ∧ (∀ a, Instr.add 3 1 2 ≠ .tst a) ∧ (Instr.add 3 1 2).wf = true ∧
    ∀ r, (Instr.add 3 1 2).divisor? = some r → addRunning.operand r ≠ 0 := by
  refine ⟨⟨_, rfl⟩, by decide, ?_, ?_, by simp, by simp, by decide, by simp [Instr.divisor?]⟩ <;>
    simp only [isRegByte] <;> decide +kernel

/-- CMP x1, x2 with x1 above x2 running, engine next. -/
def cmpRunning : State := running c32 [(1, 2 ^ 32)] 0x12012000

/-- TST x15 running, engine next. -/
def tstRunning : State := running c32 [] 0x130F0000

theorem witness_FlagsChangeOnlyByTheirCommand_cmp :
    goesOn cmpRunning = true ∧ cmpRunning.EngineNext ∧ cmpRunning.blk.busy = true ∧
    cmpRunning.blk.cur = some ⟨0x12012000#32, cmpRunning.blk.x⟩ ∧ decode 0x12012000#32 = .ok (.cmp 1 2) :=
  ⟨by decide +kernel, ⟨rfl, .inr ⟨[], rfl⟩⟩, rfl, rfl, by decide⟩

theorem witness_FlagsChangeOnlyByTheirCommand_tst :
    goesOn tstRunning = true ∧ tstRunning.EngineNext ∧ tstRunning.blk.busy = true ∧
    tstRunning.blk.cur = some ⟨0x130F0000#32, tstRunning.blk.x⟩ ∧ decode 0x130F0000#32 = .ok (.tst 15) :=
  ⟨by decide +kernel, ⟨rfl, .inr ⟨[], rfl⟩⟩, rfl, rfl, by decide⟩

theorem witness_RegistersChangeOnlyByCommitOrWindowWrite_commit :
    regAfter addRunning 3 = some 100 ∧ (addRunning.blk.reg 3).toNat = 0 := by decide +kernel

theorem witness_RegistersChangeOnlyByCommitOrWindowWrite_window :
    regAfter (idle c32 [] [writeAt c32 0x1007C 5#32]) 15 = some (5 * 2 ^ 32) ∧
    ((idle c32 [] [writeAt c32 0x1007C 5#32]).blk.reg 15).toNat = 0 := by decide +kernel

theorem witness_RegistersChangeOnlyByCommitOrWindowWrite_reset :
    regAfter (idle c32 [(1, 7)] [.resetPin true]) 1 = some 0 ∧
    ((idle c32 [(1, 7)] [.resetPin true]).blk.reg 1).toNat = 7 := by decide +kernel

theorem witness_ConfigurationNeverChanges : goesOn (idle c8 [] [.resetPin true]) = true := by decide +kernel

theorem witness_ErrorRecordStaysUntilCleared :
    (inError addRunning).blk.err = true ∧ goesOn (inError addRunning) = true ∧
    goesOn ((inError addRunning).withSchedule [.resetPin true]) = true ∧
    goesOn ((inError addRunning).withSchedule [writeAt c32 0x8 1#32]) = true ∧ (1#32).getLsbD 0 = true := by
  decide +kernel

theorem witness_CmdWriteAcceptsRejectsOrDiscards :
    (idle c32 [] [cmdWrite c32 0#32]).inReset = false ∧
    (idle c32 [] [cmdWrite c32 0#32]).schedule = [cmdWrite c32 0#32] ∧
    (idle c32 [] [cmdWrite c32 0#32]).blk.busy = false ∧ (idle c32 [] [cmdWrite c32 0#32]).blk.err = false ∧
    (busyThen c32 [] 0 [cmdWrite c32 0#32]).blk.busy = true ∧
    (inError (idle c32 [] [cmdWrite c32 0#32])).blk.err = true := by decide +kernel

theorem witness_WindowWriteLandsOrIsRejected :
    (32 * 0 < c96.B ∧ 32 * 2 < c96.B) ∧
    (idle c96 [] [writeAt c96 (0x10000 + 15 * rstride c96 + 4 * 2) 5#32]).inReset = false ∧
    (idle c96 [] [writeAt c96 (0x10000 + 15 * rstride c96 + 4 * 2) 5#32]).blk.busy = false ∧
    (busyThen c96 [] 0 [writeAt c96 (0x10000 + 0 * rstride c96 + 4 * 0) 5#32]).blk.busy = true := by decide +kernel

theorem witness_WindowReadReturnsTheCommittedWord :
    (32 * 0 < c96.B ∧ 32 * 2 < c96.B) ∧
    (busyThen c96 [] 0 [readAt c96 (0x10000 + 15 * rstride c96 + 4 * 2)]).inReset = false ∧
    (busyThen c96 [] 0 [readAt c96 (0x10000 + 15 * rstride c96 + 4 * 2)]).schedule =
      [readAt c96 (0x10000 + 15 * rstride c96 + 4 * 2)] := by decide +kernel

theorem witness_WindowIsLittleEndianWithStride :
    0 < c32.B / 8 ∧ 7 < c32.B / 8 ∧ 11 < c96.B / 8 ∧ 4095 < cMax.B / 8 ∧ 32 * 1023 < cMax.B := by decide +kernel

theorem witness_BadWidthOrAlignmentIsABusError :
    (idle c8 [] [.read (c8.blockBase + 0x1FFFF) 4]).inReset = false ∧ (0x1FFFF < 2 ^ 17 ∧ 0x1FFFF % 4 ≠ 0) ∧
    (0x00000 < 2 ^ 17 ∧ (8 ≠ 4 ∨ 0 % 4 ≠ 0)) ∧
    (idle c8 [] [.read (c8.blockBase + 0x1FFFF) 4]).schedule = [.read (c8.blockBase + 0x1FFFF) 4] ∧
    (idle c8 [] [.write (c8.blockBase + 0) 8 1#32]).schedule = [.write (c8.blockBase + 0) 8 1#32] := by decide +kernel

theorem witness_ReservedReadsZeroAndIgnoresWrites_reserved :
    (idle c96 [] []).inReset = false ∧ (0x00018 < 2 ^ 17 ∧ 0x00018 % 4 = 0 ∧ ∀ r : Reg, ¬ isRegByte c96 r 0x00018) ∧
    (0x0FFFC < 2 ^ 17 ∧ 0x0FFFC % 4 = 0 ∧ ∀ r : Reg, ¬ isRegByte c96 r 0x0FFFC) ∧
    (0x1000C < 2 ^ 17 ∧ 0x1000C % 4 = 0 ∧ ∀ r : Reg, ¬ isRegByte c96 r 0x1000C) ∧
    (0x10100 < 2 ^ 17 ∧ 0x10100 % 4 = 0 ∧ ∀ r : Reg, ¬ isRegByte c96 r 0x10100) ∧
    (0x1FFFC < 2 ^ 17 ∧ 0x1FFFC % 4 = 0 ∧ ∀ r : Reg, ¬ isRegByte c96 r 0x1FFFC) := by
  simp only [isRegByte]; decide +kernel

theorem witness_ReservedReadsZeroAndIgnoresWrites_registers :
    (0x00004 < 2 ^ 17 ∧ 0x00004 % 4 = 0) ∧ (0x00014 < 2 ^ 17 ∧ 0x00014 % 4 = 0) ∧
    (idle c96 [] [writeAt c96 0x00014 1#32]).schedule = [writeAt c96 0x00014 1#32] ∧
    (idle c96 [] [readAt c96 0x00000]).schedule = [readAt c96 0x00000] := by decide +kernel

theorem witness_ReadsHaveNoSideEffect :
    (idle c32 [] [.read 0x1FFFF 1]).schedule = [.read 0x1FFFF 1] ∧ goesOn (idle c32 [] [.read 0x1FFFF 1]) = true := by
  decide +kernel

theorem witness_CtrlWriteActsOnItsThreeBits :
    (busyThen c32 [] 0 [writeAt c32 0x00008 7#32]).inReset = false ∧
    (busyThen c32 [] 0 [writeAt c32 0x00008 7#32]).schedule = [writeAt c32 0x00008 7#32] ∧
    (busyThen c32 [] 0 [readAt c32 0x00008]).schedule = [readAt c32 0x00008] := by decide +kernel

theorem witness_StatusShowsItsFields :
    (idle c32 [] [writeAt c32 0x00004 7#32]).inReset = false ∧
    (idle c32 [] [writeAt c32 0x00004 7#32]).schedule = [writeAt c32 0x00004 7#32] ∧
    (idle c32 [] [readAt c32 0x00004]).schedule = [readAt c32 0x00004] := by decide +kernel

theorem witness_ConfigurationAndErrcmdReads :
    (idle cMax [] []).inReset = false ∧
    (idle c32 [] [readAt c32 0x0000C]).schedule = [readAt c32 0x0000C] ∧
    (idle c32 [] [readAt c32 0x00010]).schedule = [readAt c32 0x00010] ∧
    (idle c32 [] [readAt c32 0x00014]).schedule = [readAt c32 0x00014] ∧
    (idle c32 [] [readAt c32 0x00000]).schedule = [readAt c32 0x00000] := by decide +kernel

theorem witness_ErrorStateDiscardsOnlyCommands :
    (inError addRunning).inReset = false ∧ (inError addRunning).blk.err = true ∧
    (inError addRunning).blk.busy = true ∧
    (inError addRunning).blk.cur = some ⟨0x01312000#32, (inError addRunning).blk.x⟩ ∧
    (inError addRunning).schedule = [.engine] ∧
    decode 0x01312000#32 = .ok (.add 3 1 2) ∧
    (inError illegalRunning).blk.cur = some ⟨0x16000000#32, (inError illegalRunning).blk.x⟩ ∧
    decode 0x16000000#32 = .error .reservedOpcode ∧
    (inError (idle c32 [] [cmdWrite c32 5#32])).schedule = [cmdWrite c32 5#32] ∧
    (inError (idle c32 [] [writeAt c32 (regByteOffset c32 15 4) 5#32])).schedule =
      [writeAt c32 (regByteOffset c32 15 4) 5#32] ∧
    (inError (idle c32 [] [writeAt c32 (regByteOffset c32 15 4) 5#32])).blk.busy = false ∧ 32 * 1 < c32.B := by
  decide +kernel

theorem witness_ResetForcesResetValues :
    (busyThen c32 [] 0 [.resetPin true]).schedule = [.resetPin true] ∧
    ((idle c32 [] [.resetPin false]).setResetPin true).inReset = true ∧
    ((idle c32 [] [.resetPin false]).setResetPin true).schedule = [.resetPin false] ∧
    ((idle c32 [] [readAt c32 0x1FFFC]).setResetPin true).schedule = [readAt c32 0x1FFFC] := by decide +kernel

theorem witness_StepKeepsTheInvariant :
    addRunning.Inv ∧ goesOn addRunning = true ∧ (inError addRunning).Inv ∧ goesOn (inError addRunning) = true := by
  decide +kernel

theorem witness_AcceptedCommandAlwaysCommits :
    (busyThen c32 [] 0x01312000 [readAt c32 4, cmdWrite c32 1#32]).Inv ∧
    (busyThen c32 [] 0x01312000 [readAt c32 4, cmdWrite c32 1#32]).blk.busy = true ∧
    (busyThen c32 [] 0x01312000 [readAt c32 4, cmdWrite c32 1#32]).inReset = false ∧
    noReset (busyThen c32 [] 0x01312000 [readAt c32 4, cmdWrite c32 1#32]).schedule = true := by decide +kernel

theorem witness_CommitIsFixedAtAcceptance :
    (idle c32 [] [cmdWrite c32 0x01312000#32, cmdWrite c32 1#32, .engine]).inReset = false ∧
    (idle c32 [] [cmdWrite c32 0x01312000#32, cmdWrite c32 1#32, .engine]).blk.err = false ∧
    (idle c32 [] [cmdWrite c32 0x01312000#32, cmdWrite c32 1#32, .engine]).blk.busy = false ∧
    decode 0x01312000#32 = .ok (.add 3 1 2) ∧ [cmdWrite c32 1#32].all Event.isAccess = true ∧
    (idle c32 [] [cmdWrite c32 0x01312000#32, cmdWrite c32 1#32, .engine]).schedule =
      cmdWrite c32 0x01312000#32 :: ([cmdWrite c32 1#32] ++ .engine :: []) := by decide +kernel

theorem witness_IdleBlockHoldsItsState :
    (idle c32 [] [.engine]).inReset = false ∧ (idle c32 [] [.engine]).blk.busy = false ∧
    (idle c32 [] [.engine]).schedule = [.engine] ∧ (idle c32 [] []).schedule = [] := by decide +kernel

theorem witness_AccessOutsideTheBlockChangesNothing :
    0x3FFF < (idle c8 [] []).cfg.blockBase ∧ (idle c8 [] []).cfg.blockBase + 2 ^ 17 ≤ 0x24000 ∧
    (idle c8 [] [.read 0x3FFF 8]).schedule = [.read 0x3FFF 8] ∧
    (idle c8 [] [.write 0x24000 4 1#32]).schedule = [.write 0x24000 4 1#32] := by decide +kernel

end Sys2Proof.Tests
end

section
/-! SUPPORT. The invariant of the block (10_state.md R23, R24, R25, R34), kept by each operation and so by each step. -/

namespace Sys2Proof.Machine

/-! ## What ends a command -/

/-- A command commits, or raises one of the two errors a command can raise: never the code NONE. -/
theorem exec_commits_or_raises (i : Instr) (s : State) :
    (∃ ws fl, exec i s = s.commit ws fl) ∨ ∃ code, code ≠ .none ∧ exec i s = s.raise code := by
  cases i with
  | div d a b =>
    by_cases zero : s.operand b = 0
    · exact .inr ⟨.divz, by decide, if_pos zero⟩
    · exact .inl ⟨_, _, if_neg zero⟩
  | mod d a b =>
    by_cases zero : s.operand b = 0
    · exact .inr ⟨.divz, by decide, if_pos zero⟩
    · exact .inl ⟨_, _, if_neg zero⟩
  | divmod q r a b =>
    by_cases same : q = r
    · exact .inr ⟨.illegal, by decide, if_pos same⟩
    by_cases zero : s.operand b = 0
    · exact .inr ⟨.divz, by decide, (if_neg same).trans (if_pos zero)⟩
    · exact .inl ⟨_, _, (if_neg same).trans (if_neg zero)⟩
  | powmod d b e m =>
    by_cases zero : s.operand m = 0
    · exact .inr ⟨.divz, by decide, if_pos zero⟩
    · exact .inl ⟨_, _, if_neg zero⟩
  | _ => exact .inl ⟨_, _, rfl⟩

/-- The same of the commit of any word. -/
theorem State.runWord_commits_or_raises (s : State) (word : Word) :
    (∃ ws fl, s.runWord word = s.commit ws fl) ∨ ∃ code, code ≠ .none ∧ s.runWord word = s.raise code := by
  obtain ⟨i, _, run⟩ | ⟨_, _, run⟩ := s.runWord_cases word <;> rw [run]
  · exact exec_commits_or_raises i s
  · exact .inr ⟨.illegal, by decide, rfl⟩

/-! ## Each operation keeps the block coherent -/

theorem Block.reset_coherent (c : Config) : (Block.reset c).Coherent := by
  simp [Block.Coherent, Block.reset]

/-- A commit leaves no command latched, and CMP's three flags come from one ordering. -/
theorem Block.Coherent.commitOk {c : Config} {b : Block c} (h : b.Coherent) (ws : List (Reg × c.Value))
    (fl : FlagWrite) : (b.commitOk ws fl).Coherent := by
  obtain ⟨_, _, _, code, word, flags⟩ := h
  refine ⟨by simp [Block.commitOk], by simp [Block.commitOk], by simp [Block.commitOk], ?_, ?_, ?_⟩
  · simpa [Block.commitOk] using code
  · simpa [Block.commitOk] using word
  · cases fl with
    | none => exact flags
    | zero v => exact flags
    | compare o => cases o <;> rfl

/-- An error at the commit leaves no command latched and an error recorded: the earlier one, or the new one. -/
theorem Block.Coherent.afterError {c : Config} {b : Block c} (h : b.Coherent) {code : ErrCode} (named : code ≠ .none)
    (w : Word) : (b.afterError code w).Coherent := by
  obtain ⟨_, _, _, recorded, _, flags⟩ := h
  refine ⟨nofun, fun _ => rfl, nofun, ⟨fun _ => ?_, fun _ => rfl⟩, nofun, flags⟩
  cases err : b.err
  · simpa [Block.afterError, err] using named
  · simpa [Block.afterError, err] using recorded.1 err

/-- An error recorded while a command may be running touches neither the latch nor the flags. -/
theorem Block.Coherent.recordError {c : Config} {b : Block c} (h : b.Coherent) {code : ErrCode} (named : code ≠ .none)
    (w : Word) : (b.recordError code w).Coherent := by
  unfold Block.recordError
  split
  · exact h
  · obtain ⟨snap, idle, running, _, _, flags⟩ := h
    exact ⟨snap, idle, running, ⟨fun _ => named, fun _ => rfl⟩, nofun, flags⟩

theorem Block.Coherent.accept {c : Config} {b : Block c} (h : b.Coherent) (w : Word) : (b.accept w).Coherent := by
  obtain ⟨_, _, _, code, word, flags⟩ := h
  exact ⟨fun _ => rfl, nofun, fun _ => rfl, code, word, flags⟩

/-- With no command running there is no snapshot for a register write to part from. -/
theorem Block.Coherent.withRegs {c : Config} {b : Block c} (h : b.Coherent) (free : b.busy = false) (x' : RegFile c) :
    Block.Coherent { b with x := x' } := by
  obtain ⟨_, idle, running, code, word, flags⟩ := h
  exact ⟨fun busy => absurd busy (by simp [free]), idle, running, code, word, flags⟩

theorem Block.Coherent.clearErrorIf {c : Config} {b : Block c} (h : b.Coherent) (on : Bool) :
    (b.clearErrorIf on).Coherent := by
  obtain ⟨snap, idle, running, code, word, flags⟩ := h
  cases on
  · exact ⟨snap, idle, running, code, word, flags⟩
  · exact ⟨snap, idle, running, by simp [Block.clearErrorIf], fun _ => rfl, flags⟩

theorem Block.Coherent.clearDoneIf {c : Config} {b : Block c} (h : b.Coherent) (on : Bool) :
    (b.clearDoneIf on).Coherent := by
  obtain ⟨snap, idle, running, code, word, flags⟩ := h
  cases on
  · exact ⟨snap, idle, running, code, word, flags⟩
  · exact ⟨snap, idle, fun _ => rfl, code, word, flags⟩

theorem Block.Coherent.writeCmd {c : Config} {b : Block c} (h : b.Coherent) (w : Word) : (b.writeCmd w).Coherent := by
  unfold Block.writeCmd
  split
  · exact h
  · split
    · exact h.recordError (by decide) w
    · exact h.accept w

theorem Block.Coherent.writeWindow {c : Config} {b : Block c} (h : b.Coherent) (r : Reg) (k : Nat) (v : Word) :
    (b.writeWindow r k v).Coherent := by
  unfold Block.writeWindow
  split
  · exact h.recordError (by decide) 0
  · exact h.withRegs (by simpa using ‹¬b.busy = true›) _

theorem Block.Coherent.writeTarget {c : Config} {b : Block c} (h : b.Coherent) (v : Word) (target : Target) :
    (b.writeTarget v target).Coherent := by
  cases target with
  | cmd => exact h.writeCmd v
  | ctrl => exact (h.clearErrorIf _).clearDoneIf _
  | window r k => exact h.writeWindow r k v
  | status | config | capbits | errcmd | reserved => exact h

/-- The engine's commit of any word keeps the invariant: it leaves the reset input as it is, not asserted. -/
theorem State.runWord_inv {s t : State} (coherent : s.blk.Coherent) (released : s.inReset = false) (word : Word)
    (run : s.runWord word = .next t) : t.Inv := by
  obtain ⟨ws, fl, e⟩ | ⟨code, named, e⟩ := s.runWord_commits_or_raises word
  · rw [e, State.commit_eq] at run
    cases run
    exact ⟨coherent.commitOk ws fl, by simp [released]⟩
  · rw [e, State.raise_eq] at run
    cases run
    exact ⟨coherent.afterError named _, by simp [released]⟩

/-- Settles O54, by the four things a step can do: each keeps the block coherent, and only reset asserts the input. -/
theorem stepKeepsTheInvariant : Obligations.StepKeepsTheInvariant := by
  rintro s t ⟨coherent, held⟩ next
  obtain ⟨_, forced⟩ | ⟨⟨released, _⟩, l, es, _, _, run⟩ | ⟨o, v, es, released, _, _, rfl⟩ | ⟨es, r, rfl⟩ :=
    step_next s t next
  · exact ⟨forced ▸ Block.reset_coherent _, fun _ => forced⟩
  · exact State.runWord_inv (s := s.withSchedule es) coherent released l.word run
  · exact ⟨coherent.writeTarget v _, fun asserted => absurd asserted (by simp [released])⟩
  · exact ⟨coherent, held⟩

end Sys2Proof.Machine
end

section
/-! SUPPORT. The comparator and the zero test against the order of the naturals (41_move_compare.md R102, R103). -/

namespace Sys2Proof.Machine

/-- The part of a value below limb `j + 1` is its part below limb `j` and limb `j` above that (00_scope.md R6). -/
theorem mod_succ_limb {c : Config} (v : c.Value) (j : Nat) :
    v.toNat % 2 ^ (c.W * (j + 1)) = v.toNat % 2 ^ (c.W * j) + 2 ^ (c.W * j) * limb v j := by
  rw [limb_eq, Nat.mul_succ, Nat.pow_add, Nat.mod_mul]

/-- Numbers with unequal leading digits are ordered by those digits. -/
theorem add_mul_lt_of_digit_lt {p x y m n : Nat} (low : x < p) (digits : m < n) : x + p * m < y + p * n := by
  have : p * (m + 1) ≤ p * n := Nat.mul_le_mul_left p digits
  rw [Nat.mul_succ] at this
  omega

/-- From the top limb down, the first unequal limb orders what lies below limb `j`. -/
theorem compareBelow_eq {c : Config} (a b : c.Value) (j : Nat) :
    compareBelow a b j = compare (a.toNat % 2 ^ (c.W * j)) (b.toNat % 2 ^ (c.W * j)) := by
  induction j with
  | zero => simp [compareBelow, Nat.mod_one]
  | succ j ih =>
    have lowA : a.toNat % 2 ^ (c.W * j) < 2 ^ (c.W * j) := Nat.mod_lt _ (Nat.two_pow_pos _)
    have lowB : b.toNat % 2 ^ (c.W * j) < 2 ^ (c.W * j) := Nat.mod_lt _ (Nat.two_pow_pos _)
    rw [compareBelow, mod_succ_limb a, mod_succ_limb b]
    split
    · rename_i same
      rw [ih, same]
      simp only [Nat.compare_eq_ite_lt, Nat.add_lt_add_iff_right]
    · rename_i differ
      split
      · rename_i below
        exact (compare_lt_iff_lt.2 (add_mul_lt_of_digit_lt lowA below)).symm
      · rename_i notBelow
        exact (compare_gt_iff_gt.2 (add_mul_lt_of_digit_lt lowB (by omega))).symm

/-- CMP's comparator is the order of the values. -/
theorem compareLimbs_eq {c : Config} (a b : c.Value) : compareLimbs a b = compare a.toNat b.toNat := by
  have whole (v : c.Value) : v.toNat % 2 ^ (c.W * c.N) = v.toNat := Nat.mod_eq_of_lt v.isLt
  rw [compareLimbs, compareBelow_eq, whole, whole]

/-- A number is 0 when its limbs all are. -/
theorem joinLimbs_eq_zero (w : Nat) (ls : List Nat) : joinLimbs w ls = 0 ↔ ∀ l ∈ ls, l = 0 := by
  induction ls with
  | nil => simp [joinLimbs]
  | cons l ls ih => simp [joinLimbs, ih]

/-- TST's test is whether the value is 0. -/
theorem isZeroLimbs_eq {c : Config} (a : c.Value) : isZeroLimbs a = decide (a.toNat = 0) := by
  rw [Bool.eq_iff_iff, ← joinLimbs_limbs a, decide_eq_true_iff, joinLimbs_eq_zero]
  simp [isZeroLimbs]

end Sys2Proof.Machine
end

section
/-! SUPPORT. Which steps change the flags and the registers (10_state.md R21, R25, R26). -/

namespace Sys2Proof.Machine

/-- What a commit that answers a next state has done: the latched command's writes and flags, or an error entry. -/
theorem State.runWord_next (s t : State) (word : Word) (run : s.runWord word = .next t) :
    (∃ i ws fl, decode word = .ok i ∧ ws.map Prod.fst = i.dests ∧ t = s.withBlk (s.blk.commitOk ws fl) ∧
      ((∀ a b, i ≠ .cmp a b) → ∀ o, fl ≠ .compare o) ∧ ((∀ a, i ≠ .tst a) → ∀ v, fl ≠ .zero v)) ∨
    ∃ code, t = s.withBlk (s.blk.afterError code s.blk.curWord) := by
  obtain ⟨i, command, e⟩ | ⟨_, _, e⟩ := s.runWord_cases word <;> rw [e] at run
  · obtain ⟨ws, fl, e, dests, compares, tests⟩ | ⟨code, e⟩ := exec_cases i s
    · rw [e, State.commit_eq] at run
      cases run
      exact .inl ⟨i, ws, fl, command, dests, rfl, compares, tests⟩
    · rw [e, State.raise_eq] at run
      cases run
      exact .inr ⟨code, rfl⟩
  · rw [State.raise_eq] at run
    cases run
    exact .inr ⟨.illegal, rfl⟩

/-- At the engine's turn out of reset a step runs the latched word as the command it decodes to. -/
theorem step_of_latched (s : State) (l : Latch s.cfg) (i : Instr) (turn : s.EngineNext) (busy : s.blk.busy = true)
    (cur : s.blk.cur = some l) (command : decode l.word = .ok i) : ∃ es, step s = exec i (s.withSchedule es) := by
  obtain ⟨released, next⟩ := turn
  obtain ⟨es, e⟩ := step_of_engine s next
  exact ⟨es, by simp [e, State.engineTurn, State.runWord, released, busy, cur, command]⟩

/-! ## Flags -/

/-- A commit without CMP's flag write leaves EQ, LT and GT. -/
theorem Block.commitOk_order_flags {c : Config} (b : Block c) (ws : List (Reg × c.Value)) (fl : FlagWrite)
    (h : ∀ o, fl ≠ .compare o) :
    (b.commitOk ws fl).eq = b.eq ∧ (b.commitOk ws fl).lt = b.lt ∧ (b.commitOk ws fl).gt = b.gt := by
  cases fl with
  | compare o => exact absurd rfl (h o)
  | none | zero _ => exact ⟨rfl, rfl, rfl⟩

/-- A commit without TST's flag write leaves Z. -/
theorem Block.commitOk_z {c : Config} (b : Block c) (ws : List (Reg × c.Value)) (fl : FlagWrite)
    (h : ∀ v, fl ≠ .zero v) : (b.commitOk ws fl).z = b.z := by
  cases fl with
  | zero v => exact absurd rfl (h v)
  | none | compare _ => rfl

/-- No host write touches a flag. -/
theorem Block.writeTarget_flags {c : Config} (b : Block c) (v : Word) (target : Target) :
    (b.writeTarget v target).eq = b.eq ∧ (b.writeTarget v target).lt = b.lt ∧
    (b.writeTarget v target).gt = b.gt ∧ (b.writeTarget v target).z = b.z := by
  cases target with
  | cmd => simp only [Block.writeTarget, Block.writeCmd]; split_ifs <;> simp
  | ctrl => simp [Block.writeTarget, Block.writeCtrl]
  | window r k => simp only [Block.writeTarget, Block.writeWindow]; split_ifs <;> simp
  | status | config | capbits | errcmd | reserved => exact ⟨rfl, rfl, rfl, rfl⟩

/-- The flags after a step: cleared by reset, or each as before unless its own command has just committed. -/
theorem step_flags (s t : State) (next : step s = .next t) :
    (s.ResetActs ∧ t.blk.eq = false ∧ t.blk.lt = false ∧ t.blk.gt = false ∧ t.blk.z = false) ∨
    ((t.blk.eq = s.blk.eq ∧ t.blk.lt = s.blk.lt ∧ t.blk.gt = s.blk.gt) ∨
      (s.EngineNext ∧ ∃ l a b, s.blk.busy = true ∧ s.blk.cur = some l ∧ decode l.word = .ok (.cmp a b))) ∧
    (t.blk.z = s.blk.z ∨
      (s.EngineNext ∧ ∃ l a, s.blk.busy = true ∧ s.blk.cur = some l ∧ decode l.word = .ok (.tst a))) := by
  obtain ⟨reset, forced⟩ | ⟨turn, l, es, busy, cur, run⟩ | ⟨o, v, es, _, _, _, rfl⟩ | ⟨es, r, rfl⟩ := step_next s t next
  · exact .inl ⟨reset, by simp [forced, Block.reset]⟩
  · obtain ⟨i, ws, fl, command, _, rfl, compares, tests⟩ | ⟨code, rfl⟩ := State.runWord_next _ _ _ run
    · refine .inr ⟨?_, ?_⟩
      · by_cases isCmp : ∃ a b, i = .cmp a b
        · obtain ⟨a, b, rfl⟩ := isCmp
          exact .inr ⟨turn, l, a, b, busy, cur, command⟩
        · exact .inl (Block.commitOk_order_flags _ ws fl (compares fun a b e => isCmp ⟨a, b, e⟩))
      · by_cases isTst : ∃ a, i = .tst a
        · obtain ⟨a, rfl⟩ := isTst
          exact .inr ⟨turn, l, a, busy, cur, command⟩
        · exact .inl (Block.commitOk_z _ ws fl (tests fun a e => isTst ⟨a, e⟩))
    · exact .inr ⟨.inl ⟨rfl, rfl, rfl⟩, .inl rfl⟩
  · obtain ⟨eq, lt, gt, z⟩ := s.blk.writeTarget_flags v (targetOf s.cfg o)
    exact .inr ⟨.inl ⟨eq, lt, gt⟩, .inl z⟩
  · exact .inr ⟨.inl ⟨rfl, rfl, rfl⟩, .inl rfl⟩

/-- Exactly one of the three order flags is set by an ordering. -/
theorem order_flags_exclusive (o : Ordering) : (o == .eq).toNat + (o == .lt).toNat + (o == .gt).toNat = 1 := by
  cases o <;> rfl

theorem order_flags_eq (m n : Nat) :
    (compare m n == .eq) = decide (m = n) ∧ (compare m n == .lt) = decide (m < n) ∧
    (compare m n == .gt) = decide (n < m) := by
  simp only [beq_eq_decide, Nat.compare_eq_eq, Nat.compare_eq_lt, Nat.compare_eq_gt, and_self]

/-- Settles O34: what any step does to the flags is `step_flags`; the two flag-writing commits are CMP's and TST's. -/
theorem flagsChangeOnlyByTheirCommand : Obligations.FlagsChangeOnlyByTheirCommand := by
  refine fun s t next => ⟨step_flags s t next, fun l turn busy cur => ⟨fun a b command => ?_, fun a command => ?_⟩⟩
  all_goals
    obtain ⟨es, e⟩ := step_of_latched s l _ turn busy cur command
    have operand := Block.operand_of_latched s.blk l cur
    rw [next] at e
    cases e
  · rw [← operand a, ← operand b]
    obtain ⟨eq, lt, gt⟩ := order_flags_eq (s.blk.operand a).toNat (s.blk.operand b).toNat
    rw [← eq, ← lt, ← gt, ← compareLimbs_eq]
    exact ⟨order_flags_exclusive _, rfl, rfl, rfl⟩
  · rw [← operand a, ← isZeroLimbs_eq]
    rfl

/-! ## Registers -/

/-- A commit leaves every register its writes do not name. -/
theorem Block.commitOk_reg_of_not_mem {c : Config} (b : Block c) (ws : List (Reg × c.Value)) (fl : FlagWrite) (r : Reg)
    (h : r ∉ ws.map Prod.fst) : (b.commitOk ws fl).reg r = b.reg r := by
  rw [Block.reg, Block.commitOk_x, readReg_writeRegs_of_not_mem _ ws r h, Block.reg]

/-- The stride of the window is a multiple of a bus word (20_memory.md R54). -/
theorem four_dvd_rstride (c : Config) : 4 ∣ rstride c := by
  rw [rstride]
  by_cases small : ceilLog2 (c.B / 8) < 2
  · have : 2 ^ ceilLog2 (c.B / 8) ≤ 4 := Nat.pow_le_pow_right (n := 2) (by decide) (Nat.le_of_lt small)
    rw [Nat.max_eq_left this]
  · have : 4 ∣ 2 ^ ceilLog2 (c.B / 8) := Nat.pow_dvd_pow 2 (Nat.le_of_not_lt small)
    rcases Nat.le_total 4 (2 ^ ceilLog2 (c.B / 8)) with large | le
    · rwa [Nat.max_eq_right large]
    · rw [Nat.max_eq_left le]

/-- The one aligned offset of bus word `k` of `x[r]`, which is a word of the register (20_memory.md R54). -/
theorem offset_of_targetOf_window (c : Config) (o : BitVec 17) (r : Reg) (k : Nat) (aligned : o.toNat % 4 = 0)
    (h : targetOf c o = .window r k) : 32 * k < c.B ∧ o.toNat = regByteOffset c r (4 * k) := by
  obtain ⟨inWindow, i, place, rfl⟩ := targetOf_window c o r k h
  obtain ⟨distance, _, inReg⟩ := windowPlace_some c _ r i place
  have whole := windowDistance_eq o.toNat inWindow o.isLt
  obtain ⟨n, stride⟩ : 4 ∣ r.val * rstride c := (four_dvd_rstride c).mul_left r.val
  unfold regByteOffset
  unfold windowBase at *
  omega

/-- A host write changes a register only as a window write to it while no command runs. -/
theorem Block.writeTarget_reg {c : Config} (b : Block c) (v : Word) (target : Target) (r : Reg) :
    (b.writeTarget v target).reg r = b.reg r ∨ (b.busy = false ∧ ∃ k, target = .window r k) := by
  unfold Block.reg
  cases target with
  | cmd => simp only [Block.writeTarget, Block.writeCmd]; split_ifs <;> simp
  | ctrl => simp [Block.writeTarget, Block.writeCtrl]
  | window r' k =>
    cases busy : b.busy with
    | true => simp [Block.writeTarget, Block.writeWindow, busy]
    | false =>
      by_cases same : r' = r
      · exact .inr ⟨rfl, k, same ▸ rfl⟩
      · simp [Block.writeTarget, Block.writeWindow, busy, readReg_writeReg, same]
  | status | config | capbits | errcmd | reserved => exact .inl rfl

/-- Settles O35, by the four things a step can do: a commit writes its destinations alone, a host write the register of
its window offset alone. -/
theorem registersChangeOnlyByCommitOrWindowWrite : Obligations.RegistersChangeOnlyByCommitOrWindowWrite := by
  intro s t r next changed
  obtain reset | ⟨turn, l, es, busy, cur, run⟩ | ⟨o, v, es, released, aligned, write, rfl⟩ | ⟨es, a, rfl⟩ :=
    step_next s t next
  · exact .inl reset
  · obtain ⟨i, ws, fl, command, dests, rfl, _, _⟩ | ⟨code, rfl⟩ := State.runWord_next _ _ _ run
    · refine .inr (.inl ⟨turn, l, i, busy, cur, command, ?_⟩)
      by_contra notDest
      rw [← dests] at notDest
      exact changed (congrArg BitVec.toNat (s.blk.commitOk_reg_of_not_mem ws fl r notDest))
    · exact absurd rfl changed
  · obtain kept | ⟨free, k, window⟩ := s.blk.writeTarget_reg v (targetOf s.cfg o) r
    · exact absurd (congrArg BitVec.toNat kept) changed
    · obtain ⟨inReg, offset⟩ := offset_of_targetOf_window s.cfg o r k aligned window
      exact .inr (.inr ⟨free, released, k, v, es, inReg, offset ▸ write⟩)
  · exact absurd rfl changed

end Sys2Proof.Machine
end

section
/-! SUPPORT. Host accesses at the block's own registers (10_state.md R23, R29 to R33, R36). -/

namespace Sys2Proof.Machine

/-! ## The configuration -/

theorem State.engineTurn_cfg (s t : State) (turn : s.engineTurn = .next t) : t.cfg = s.cfg := by
  obtain ⟨_, e⟩ | ⟨_, l, _, _, e⟩ | ⟨_, _, e⟩ := s.engineTurn_cases <;> rw [e] at turn
  · cases turn; rfl
  · obtain ⟨i, ws, fl, _, _, rfl, _, _⟩ | ⟨code, rfl⟩ := State.runWord_next s t l.word turn <;> rfl
  · cases turn; rfl

/-- No step changes the configuration. -/
theorem step_cfg (s t : State) (next : step s = .next t) : t.cfg = s.cfg := by
  obtain ⟨_, e⟩ | ⟨es, _, e⟩ | ⟨addr, size, es, _, e⟩ | ⟨addr, size, v, es, _, e⟩ | ⟨level, es, _, e⟩ :=
    step_of_schedule s <;> rw [e] at next
  · exact State.engineTurn_cfg s t next
  · exact State.engineTurn_cfg (s.withSchedule es) t next
  · obtain ⟨r, e⟩ | ⟨_, e⟩ := State.hostRead_cases (s.withSchedule es) addr size <;> rw [e] at next <;> cases next
    rfl
  · obtain ⟨o, _, _, _, _, e⟩ | ⟨r, e⟩ | ⟨_, e⟩ := State.hostWrite_cases (s.withSchedule es) addr size v <;>
      rw [e] at next <;> cases next <;> rfl
  · cases next
    obtain ⟨_, e⟩ | ⟨_, _, e⟩ := State.setResetPin_cases (s.withSchedule es) level <;> rw [e] <;> rfl

/-- Settles O36: CONFIG and CAPBITS are read from the configuration alone, which no step changes (`step_cfg`). -/
theorem configurationNeverChanges : Obligations.ConfigurationNeverChanges := by
  intro s t next
  have same := step_cfg s t next
  exact ⟨same, congrArg configWord same, congrArg capbitsWord same⟩

/-! ## An aligned access of 32 bits, as a step -/

theorem blockOffset?_add (c : Config) (offset : Nat) (inBlock : offset < 2 ^ 17) :
    blockOffset? c (c.blockBase + offset) = some (BitVec.ofNat 17 offset) := by
  rw [blockOffset?_some, BitVec.toNat_ofNat, Nat.mod_eq_of_lt inBlock]

theorem busAligned_ofNat (offset : Nat) (inBlock : offset < 2 ^ 17) (aligned : offset % 4 = 0) :
    busAligned 4 (BitVec.ofNat 17 offset) = true := by
  simp only [busAligned, BitVec.toNat_ofNat, Nat.mod_eq_of_lt inBlock, aligned, beq_self_eq_true, Bool.and_self]

/-- Out of reset, the read answers the word of its target. -/
theorem State.hostRead_of_offset (s : State) (offset : Nat) (released : s.inReset = false) (inBlock : offset < 2 ^ 17)
    (aligned : offset % 4 = 0) :
    s.hostRead (s.cfg.blockBase + offset) 4 =
      .next (s.answer (.data (s.blk.readTarget (targetOf s.cfg (BitVec.ofNat 17 offset))))) := by
  simp only [State.hostRead, Block.readResponse, blockOffset?_add s.cfg offset inBlock,
    busAligned_ofNat offset inBlock aligned, released, Bool.false_eq_true, if_false, if_true]

/-- Out of reset, the write does to the block what its target's write does. -/
theorem State.hostWrite_of_offset (s : State) (offset : Nat) (v : Word) (released : s.inReset = false)
    (inBlock : offset < 2 ^ 17) (aligned : offset % 4 = 0) :
    s.hostWrite (s.cfg.blockBase + offset) 4 v =
      .next ((s.withBlk (s.blk.writeTarget v (targetOf s.cfg (BitVec.ofNat 17 offset)))).answer .written) := by
  simp only [State.hostWrite, blockOffset?_add s.cfg offset inBlock, busAligned_ofNat offset inBlock aligned, released,
    Bool.false_eq_true, if_false, if_true]

theorem step_of_readAt (s : State) (offset : Nat) (es : List Event) (released : s.inReset = false)
    (inBlock : offset < 2 ^ 17) (aligned : offset % 4 = 0) (h : s.schedule = readAt s.cfg offset :: es) :
    step s = .next ((s.withSchedule es).answer
      (.data (s.blk.readTarget (targetOf s.cfg (BitVec.ofNat 17 offset))))) := by
  rw [step, h]
  exact State.hostRead_of_offset (s.withSchedule es) offset released inBlock aligned

theorem step_of_writeAt (s : State) (offset : Nat) (v : Word) (es : List Event) (released : s.inReset = false)
    (inBlock : offset < 2 ^ 17) (aligned : offset % 4 = 0) (h : s.schedule = writeAt s.cfg offset v :: es) :
    step s = .next (((s.withSchedule es).withBlk
      (s.blk.writeTarget v (targetOf s.cfg (BitVec.ofNat 17 offset)))).answer .written) := by
  rw [step, h]
  exact State.hostWrite_of_offset (s.withSchedule es) offset v released inBlock aligned

/-! ## The register map below the window (20_memory.md R51) -/

theorem targetOf_cmd (c : Config) : targetOf c 0x00000#17 = .cmd := rfl
theorem targetOf_status (c : Config) : targetOf c 0x00004#17 = .status := rfl
theorem targetOf_ctrl (c : Config) : targetOf c 0x00008#17 = .ctrl := rfl
theorem targetOf_config (c : Config) : targetOf c 0x0000C#17 = .config := rfl
theorem targetOf_capbits (c : Config) : targetOf c 0x00010#17 = .capbits := rfl
theorem targetOf_errcmd (c : Config) : targetOf c 0x00014#17 = .errcmd := rfl

/-! ## CTRL -/

/-- What a CTRL write leaves in IE, by bit 2 first. -/
theorem ieAfterWrite_eq (v : Word) (ie : Bool) :
    ieAfterWrite v ie = if v.getLsbD 2 then true else if v.getLsbD 0 || v.getLsbD 1 then ie else false := by
  unfold ieAfterWrite acknowledges
  cases v.getLsbD 2
  · cases v.getLsbD 0 || v.getLsbD 1 <;> simp
  · simp

theorem Block.ctrlWord_toNat {c : Config} (b : Block c) : b.ctrlWord.toNat = b.ie.toNat * 2 ^ 2 := by
  rw [Block.ctrlWord]
  cases b.ie <;> rfl

/-- Settles O46, from all that a CTRL write does (`Block.writeCtrl_eq`) and the word CTRL reads as. -/
theorem ctrlWriteActsOnItsThreeBits : Obligations.CtrlWriteActsOnItsThreeBits := by
  refine fun s v es released => ⟨fun write => ?_, fun read => ⟨s.blk.ctrlWord, s.blk.ctrlWord_toNat, ?_⟩⟩
  · rw [step_of_writeAt s _ v es released (by decide) (by decide) write, targetOf_ctrl, Block.writeTarget,
      Block.writeCtrl_eq, ieAfterWrite_eq]
    rfl
  · rw [step_of_readAt s _ es released (by decide) (by decide) read, targetOf_ctrl, Block.readTarget]

/-! ## STATUS -/

/-- The bits of STATUS but ERRCODE (10_state.md R23). -/
theorem Block.statusWord_bits {c : Config} (b : Block c) :
    b.statusWord.getLsbD 0 = b.busy ∧ b.statusWord.getLsbD 1 = b.done ∧ b.statusWord.getLsbD 2 = b.err ∧
    b.statusWord.getLsbD 3 = false ∧ b.statusWord.getLsbD 4 = b.eq ∧ b.statusWord.getLsbD 5 = b.lt ∧
    b.statusWord.getLsbD 6 = b.gt ∧ b.statusWord.getLsbD 7 = b.z := by
  simp only [Block.statusWord, BitVec.getLsbD_append]
  simp

/-- From bit 8 up STATUS is the four bits of ERRCODE, and 0 above them. -/
theorem Block.statusWord_getLsbD_of_ge {c : Config} (b : Block c) (i : Nat) (h : 8 ≤ i) :
    b.statusWord.getLsbD i = b.errCode.bits.getLsbD (i - 8) := by
  simp only [Block.statusWord, BitVec.getLsbD_append]
  simp (disch := omega) only [if_neg, Nat.sub_sub, Nat.reduceAdd]
  split
  · rfl
  · rw [BitVec.getLsbD_zero, BitVec.getLsbD_of_ge _ _ (by omega)]

theorem Block.statusWord_errCode {c : Config} (b : Block c) : b.statusWord.extractLsb' 8 4 = b.errCode.bits := by
  apply BitVec.eq_of_getLsbD_eq
  intro i h
  rw [BitVec.getLsbD_extractLsb', b.statusWord_getLsbD_of_ge _ (by omega), Nat.add_sub_cancel_left, decide_eq_true h,
    Bool.true_and]

theorem Block.statusWord_high {c : Config} (b : Block c) (i : Nat) (h : 12 ≤ i) : b.statusWord.getLsbD i = false := by
  rw [b.statusWord_getLsbD_of_ge i (by omega), BitVec.getLsbD_of_ge _ _ (by omega)]

/-- Settles O47, field by field of the word STATUS reads as. -/
theorem statusShowsItsFields : Obligations.StatusShowsItsFields := by
  refine fun s v es released => ⟨fun write => ?_, fun read => ⟨s.blk.statusWord, ?_, ?_⟩⟩
  · rw [step_of_writeAt s _ v es released (by decide) (by decide) write, targetOf_status, Block.writeTarget]
    rfl
  · rw [step_of_readAt s _ es released (by decide) (by decide) read, targetOf_status, Block.readTarget]
  · obtain ⟨busy, done, err, fixed, eq, lt, gt, z⟩ := s.blk.statusWord_bits
    refine ⟨busy, done, err, fixed, eq, lt, gt, z, ?_, s.blk.statusWord_high⟩
    rw [s.blk.statusWord_errCode]
    cases s.blk.errCode <;> rfl

/-! ## CONFIG and CAPBITS -/

/-- The limb width has at most 8 bits and the limb count at most 16, so that CONFIG cuts neither (10_state.md R30). -/
theorem configWord_toNat (c : Config) : (configWord c).toNat = 16 * 2 ^ 24 + c.N * 2 ^ 8 + c.W := by
  have width : c.W < 2 ^ 8 := Nat.lt_of_le_of_lt c.W_le (by decide)
  have count : c.N < 2 ^ 16 :=
    calc c.N ≤ c.W * c.N := Nat.le_mul_of_pos_left _ c.W_pos
      _ ≤ 32768 := c.B_le
      _ < 2 ^ 16 := by decide
  rw [configWord, BitVec.toNat_append, BitVec.toNat_append, BitVec.toNat_ofNat, BitVec.toNat_ofNat, BitVec.toNat_ofNat,
    Nat.mod_eq_of_lt width, Nat.mod_eq_of_lt count, ← Nat.shiftLeft_add_eq_or_of_lt count,
    ← Nat.shiftLeft_add_eq_or_of_lt width, Nat.shiftLeft_eq, Nat.shiftLeft_eq, nreg]
  omega

theorem capbitsWord_toNat (c : Config) : (capbitsWord c).toNat = c.W * c.N := by
  rw [capbitsWord, BitVec.toNat_ofNat, Nat.mod_eq_of_lt (Nat.lt_of_le_of_lt c.B_le (by decide)), Config.B_eq]

/-- Settles O48: the four reads, each with the number its word is. -/
theorem configurationAndErrcmdReads : Obligations.ConfigurationAndErrcmdReads := by
  refine fun s es released =>
    ⟨fun read => ⟨configWord s.cfg, configWord_toNat s.cfg, ?_⟩,
      fun read => ⟨capbitsWord s.cfg, capbitsWord_toNat s.cfg, ?_⟩, fun read => ?_, fun read => ?_⟩
  all_goals rw [step_of_readAt s _ es released (by decide) (by decide) read]
  · rw [targetOf_config, Block.readTarget]
  · rw [targetOf_capbits, Block.readTarget]
  · rw [targetOf_errcmd, Block.readTarget]
  · rw [targetOf_cmd, Block.readTarget]

end Sys2Proof.Machine
end

section
/-! SUPPORT. The register window (20_memory.md R54 to R57): its stride, the place of each byte and bus word, and the
bits of a bus word. -/

namespace Sys2Proof.Machine

/-! ## The stride -/

/-- Above 1, `ceilLog2` is the exponent of the least power of two that is at least `m`. -/
theorem ceilLog2_bounds (m : Nat) (h : 1 < m) : 2 ^ (ceilLog2 m - 1) < m ∧ m ≤ 2 ^ ceilLog2 m := by
  have low : 2 ^ Nat.log2 (m - 1) ≤ m - 1 := Nat.log2_self_le (by omega)
  have high : m - 1 < 2 ^ (Nat.log2 (m - 1) + 1) := Nat.lt_log2_self
  rw [ceilLog2, if_neg (by omega), Nat.add_sub_cancel]
  omega

/-- A register has at least the 4 bytes of one bus word. -/
theorem four_le_bytes (c : Config) : 4 ≤ c.B / 8 := by
  have := c.B_ge
  omega

theorem two_le_ceilLog2 (c : Config) : 2 ≤ ceilLog2 (c.B / 8) := by
  have bytes := four_le_bytes c
  have fits := (ceilLog2_bounds (c.B / 8) (by omega)).2
  exact (Nat.pow_le_pow_iff_right (by decide)).1 (show 2 ^ 2 ≤ 2 ^ ceilLog2 (c.B / 8) by omega)

/-- The `max` of R54 never takes its 4: a register is at least 32 bits wide. -/
theorem rstride_eq_two_pow (c : Config) : rstride c = 2 ^ ceilLog2 (c.B / 8) :=
  Nat.max_eq_right (Nat.pow_le_pow_right (n := 2) (by decide) (two_le_ceilLog2 c))

/-- A register's bytes fit in its stride. -/
theorem bytes_le_rstride (c : Config) : c.B / 8 ≤ rstride c := by
  have bytes := four_le_bytes c
  rw [rstride_eq_two_pow]
  exact (ceilLog2_bounds (c.B / 8) (by omega)).2

/-- The widest register, of 32768 bits, has a stride of 4096 bytes. -/
theorem rstride_le (c : Config) : rstride c ≤ 4096 := by
  have bytes := four_le_bytes c
  have least := (ceilLog2_bounds (c.B / 8) (by omega)).1
  have bound : 2 ^ (ceilLog2 (c.B / 8) - 1) < 2 ^ 12 := by
    have := c.B_le
    omega
  have exponent : ceilLog2 (c.B / 8) - 1 < 12 := (Nat.pow_lt_pow_iff_right (by decide)).1 bound
  rw [rstride_eq_two_pow]
  exact Nat.pow_le_pow_right (n := 2) (j := 12) (by decide) (by omega)

/-! ## Places in the window -/

/-- Byte `i` of `x[r]` is at its place, the converse of `windowPlace_some`. -/
theorem windowPlace_regByte (c : Config) (r : Reg) (i : Nat) (h : i < c.B / 8) :
    windowPlace c (r.val * rstride c + i) = some (r, i) := by
  have below : i < rstride c := Nat.lt_of_lt_of_le h (bytes_le_rstride c)
  have reg : (r.val * rstride c + i) / rstride c = r.val := by
    rw [Nat.mul_comm, Nat.mul_add_div (rstride_pos c), Nat.div_eq_of_lt below, Nat.add_zero]
  have byte : (r.val * rstride c + i) % rstride c = i := by
    rw [Nat.mul_comm, Nat.mul_add_mod, Nat.mod_eq_of_lt below]
  simp only [windowPlace, reg, byte, h, r.isLt, dif_pos, if_pos]

/-- Every register byte lies less than 2^16 bytes into the window. -/
theorem regByte_lt_windowBase (c : Config) (r : Reg) (i : Nat) (h : i < c.B / 8) :
    r.val * rstride c + i < windowBase := by
  have below : i < rstride c := Nat.lt_of_lt_of_le h (bytes_le_rstride c)
  calc r.val * rstride c + i < (r.val + 1) * rstride c := by rw [Nat.succ_mul]; omega
    _ ≤ 16 * 4096 := Nat.mul_le_mul r.isLt (rstride_le c)
    _ = windowBase := rfl

theorem windowDistance_add (d : Nat) (h : d < windowBase) : windowDistance (windowBase + d) = d := by
  rw [windowDistance, Nat.add_mod_left, Nat.mod_eq_of_lt h]

/-- The bytes `isRegByte` gives to a register are those whose place names it. -/
theorem isRegByte_of_windowPlace (c : Config) (o : Nat) (r : Reg) (i : Nat) (inWindow : windowBase ≤ o)
    (inBlock : o < 2 * windowBase) (place : windowPlace c (windowDistance o) = some (r, i)) : isRegByte c r o := by
  obtain ⟨distance, _, inReg⟩ := windowPlace_some c _ r i place
  have whole := windowDistance_eq o inWindow inBlock
  unfold isRegByte
  omega

/-- Byte `i` of `x[r]`, read at its place in the window (20_memory.md R54). -/
theorem Block.windowByte_regByteOffset {c : Config} (b : Block c) (r : Reg) (i : Nat) (h : i < c.B / 8) :
    b.windowByte (regByteOffset c r i) = getByte (b.reg r) i := by
  have inWindow := regByte_lt_windowBase c r i h
  rw [regByteOffset, Nat.add_assoc, Block.windowByte, if_pos (by omega), windowDistance_add _ inWindow,
    windowPlace_regByte c r i h]

/-- A window byte of a register that two blocks have in common, or of none, is the same in both. -/
theorem Block.windowByte_congr {c : Config} (b b' : Block c) (o : Nat)
    (same : ∀ r : Reg, isRegByte c r o → b.reg r = b'.reg r) : b.windowByte o = b'.windowByte o := by
  unfold Block.windowByte
  split
  · rename_i inWindow
    split
    · rename_i r i place
      rw [same r (isRegByte_of_windowPlace c o r i inWindow.1 inWindow.2 place)]
    · rfl
  · rfl

/-! ## Bus words of the window -/

/-- A bus word of a register is four of its bytes: B is a multiple of 32. -/
theorem wordByte_lt (c : Config) (k j : Nat) (inReg : 32 * k < c.B) (inWord : j < 4) : 4 * k + j < c.B / 8 := by
  have := c.B_mod
  omega

/-- The offset of bus word `k` of `x[r]` is in the block and aligned. -/
theorem wordOffset_aligned (c : Config) (r : Reg) (k : Nat) (inReg : 32 * k < c.B) :
    regByteOffset c r (4 * k) < 2 ^ 17 ∧ regByteOffset c r (4 * k) % 4 = 0 := by
  have inWindow := regByte_lt_windowBase c r (4 * k) (wordByte_lt c k 0 inReg (by decide))
  obtain ⟨n, stride⟩ : 4 ∣ r.val * rstride c := (four_dvd_rstride c).mul_left r.val
  unfold regByteOffset
  unfold windowBase at *
  omega

/-- From 0x18 on no offset names a register below the window (20_memory.md R51). -/
theorem targetOf_of_high (c : Config) (o : BitVec 17) (high : 0x18 ≤ o.toNat) :
    targetOf c o = if o.toNat < windowBase then .reserved else windowTarget c (windowDistance o.toNat) := by
  have above (n : Nat) (low : n < 0x18) : o ≠ BitVec.ofNat 17 n := by
    rintro rfl
    rw [BitVec.toNat_ofNat] at high
    exact absurd (Nat.le_trans high (Nat.mod_le n _)) (Nat.not_le.2 low)
  rw [targetOf, if_neg (above 0x00 (by decide)), if_neg (above 0x04 (by decide)), if_neg (above 0x08 (by decide)),
    if_neg (above 0x0C (by decide)), if_neg (above 0x10 (by decide)), if_neg (above 0x14 (by decide))]

/-- From the window's start on, an offset names what lies at its distance into the window. -/
theorem targetOf_of_windowBase_le (c : Config) (o : BitVec 17) (h : windowBase ≤ o.toNat) :
    targetOf c o = windowTarget c (windowDistance o.toNat) := by
  rw [targetOf_of_high c o (Nat.le_trans (by decide) h), if_neg (Nat.not_lt.2 h)]

/-- The converse of `offset_of_targetOf_window`: that offset names the bus word. -/
theorem targetOf_wordOffset (c : Config) (r : Reg) (k : Nat) (inReg : 32 * k < c.B) :
    targetOf c (BitVec.ofNat 17 (regByteOffset c r (4 * k))) = .window r k := by
  have byte : 4 * k < c.B / 8 := wordByte_lt c k 0 inReg (by decide)
  have offset : (BitVec.ofNat 17 (regByteOffset c r (4 * k))).toNat = windowBase + (r.val * rstride c + 4 * k) := by
    rw [BitVec.toNat_ofNat, Nat.mod_eq_of_lt (wordOffset_aligned c r k inReg).1, regByteOffset, Nat.add_assoc]
  rw [targetOf_of_windowBase_le c _ (by omega), offset, windowDistance_add _ (regByte_lt_windowBase c r _ byte),
    windowTarget, windowPlace_regByte c r _ byte]
  simp only [Nat.mul_div_cancel_left k (show 0 < 4 by decide)]

/-! ## The bits of a bus word -/

theorem getWord_getLsbD {n : Nat} (v : BitVec n) (k i : Nat) (h : i < 32) :
    (getWord v k).getLsbD i = v.getLsbD (32 * k + i) := by
  rw [getWord, BitVec.getLsbD_extractLsb', decide_eq_true h, Bool.true_and]

/-- Byte `j` of bus word `k` is byte `4k + j` (20_memory.md R55). -/
theorem getWord_byte {n : Nat} (v : BitVec n) (k j : Nat) (h : j < 4) :
    (getWord v k).extractLsb' (8 * j) 8 = getByte v (4 * k + j) := by
  apply BitVec.eq_of_getLsbD_eq
  intro i low
  rw [getByte, BitVec.getLsbD_extractLsb', BitVec.getLsbD_extractLsb', getWord_getLsbD v k _ (by omega),
    show 32 * k + (8 * j + i) = 8 * (4 * k + j) + i by ring]

/-- A replaced bus word has the new bits, and every other bit is as before (20_memory.md R57). -/
theorem setWord_getLsbD {n : Nat} (v : BitVec n) (k : Nat) (d : Word) (i : Nat) (h : i < n) :
    (setWord v k d).getLsbD i = if 32 * k ≤ i ∧ i < 32 * k + 32 then d.getLsbD (i - 32 * k) else v.getLsbD i := by
  have inValue : i - 32 * k < n := by omega
  simp only [setWord, BitVec.getLsbD_or, BitVec.getLsbD_and, BitVec.getLsbD_not, BitVec.getLsbD_shiftLeft,
    BitVec.getLsbD_setWidth, BitVec.getLsbD_allOnes, h, inValue, decide_true, Bool.true_and]
  by_cases below : i < 32 * k
  · simp [below, Nat.not_le.2 below]
  · by_cases inWord : i < 32 * k + 32
    · have : i - 32 * k < 32 := by omega
      simp [below, Nat.le_of_not_lt below, inWord, this]
    · have high : 32 ≤ i - 32 * k := by omega
      simp [below, inWord, Nat.not_lt.2 high, BitVec.getLsbD_of_ge d _ high]

/-- A bus word replaced twice is the bus word replaced once. -/
theorem setWord_setWord {n : Nat} (v : BitVec n) (k : Nat) (d : Word) :
    setWord (setWord v k d) k d = setWord v k d := by
  apply BitVec.eq_of_getLsbD_eq
  intro i h
  rw [setWord_getLsbD _ k d i h, setWord_getLsbD v k d i h]
  split <;> rfl

/-- Settles O42, from the bounds of `ceilLog2`, the place of each byte, and the bytes of a bus word. -/
theorem windowIsLittleEndianWithStride : Obligations.WindowIsLittleEndianWithStride := by
  refine ⟨fun c => ⟨⟨ceilLog2 (c.B / 8), rstride_eq_two_pow c, two_le_ceilLog2 c, ?_⟩, ?_⟩, fun s r i h => ?_,
    fun s r k j inReg inWord => ?_⟩
  · have bytes := four_le_bytes c
    obtain ⟨least, fits⟩ := ceilLog2_bounds (c.B / 8) (by omega)
    exact ⟨fits, .inr least⟩
  · have := rstride_le c
    omega
  · exact s.blk.windowByte_regByteOffset r i h
  · rw [getWord_byte _ k j inWord, Nat.add_assoc]
    exact (s.blk.windowByte_regByteOffset r _ (wordByte_lt s.cfg k j inReg inWord)).symm

end Sys2Proof.Machine
end

section
/-! SUPPORT. What a host access does to the block (20_memory.md R51 to R53, R56 to R58, R61). -/

namespace Sys2Proof.Machine

/-! ## A step is what its event asks for -/

theorem step_nil (s : State) (h : s.schedule = []) : step s = s.engineTurn := by rw [step, h]

theorem step_engine (s : State) (es : List Event) (h : s.schedule = .engine :: es) :
    step s = (s.withSchedule es).engineTurn := by rw [step, h]

theorem step_read (s : State) (addr size : Nat) (es : List Event) (h : s.schedule = .read addr size :: es) :
    step s = (s.withSchedule es).hostRead addr size := by rw [step, h]

theorem step_write (s : State) (addr size : Nat) (v : Word) (es : List Event)
    (h : s.schedule = .write addr size v :: es) : step s = (s.withSchedule es).hostWrite addr size v := by rw [step, h]

/-! ## Accesses that reach no target -/

/-- Settles O58: an address outside the block has no offset in it, so reset is not asked for. -/
theorem accessOutsideTheBlockChangesNothing : Obligations.AccessOutsideTheBlockChangesNothing := by
  intro s addr size v es outside
  have noOffset := (blockOffset?_none s.cfg addr).2 outside
  refine ⟨fun read => ?_, fun write => ?_⟩
  · simp only [step_read s addr size es read, State.hostRead, State.withSchedule_cfg, noOffset]
  · simp only [step_write s addr size v es write, State.hostWrite, State.withSchedule_cfg, noOffset]

theorem busAligned_eq_false (offset size : Nat) (inBlock : offset < 2 ^ 17) (bad : size ≠ 4 ∨ offset % 4 ≠ 0) :
    busAligned size (BitVec.ofNat 17 offset) = false := by
  rw [busAligned, BitVec.toNat_ofNat, Nat.mod_eq_of_lt inBlock]
  obtain width | alignment := bad
  · rw [beq_eq_false_iff_ne.2 width, Bool.false_and]
  · rw [beq_eq_false_iff_ne.2 alignment, Bool.and_false]

/-- Settles O43: an access that is not bus-aligned reaches no target. -/
theorem badWidthOrAlignmentIsABusError : Obligations.BadWidthOrAlignmentIsABusError := by
  intro s offset size v es released inBlock bad
  have unaligned := busAligned_eq_false offset size inBlock bad
  have place := blockOffset?_add s.cfg offset inBlock
  refine ⟨fun read => ?_, fun write => ?_⟩
  · simp [step_read s _ size es read, State.hostRead, Block.readResponse, place, released, unaligned]
  · simp [step_write s _ size v es write, State.hostWrite, place, released, unaligned]

/-! ## Reserved offsets -/

/-- From 0x18 on, an offset at which no register byte lies is reserved (20_memory.md R51, R53). -/
theorem targetOf_reserved (c : Config) (o : BitVec 17) (high : 0x18 ≤ o.toNat)
    (noByte : ∀ r : Reg, ¬ isRegByte c r o.toNat) : targetOf c o = .reserved := by
  by_cases inWindow : windowBase ≤ o.toNat
  · rw [targetOf_of_windowBase_le c o inWindow, windowTarget]
    split
    · rename_i r i place
      exact absurd (isRegByte_of_windowPlace c o.toNat r i inWindow o.isLt place) (noByte r)
    · rfl
  · rw [targetOf_of_high c o high, if_pos (Nat.lt_of_not_le inWindow)]

/-- A write whose target ignores it changes nothing but the answer. -/
theorem step_of_ignored_write (s : State) (offset : Nat) (v : Word) (es : List Event) (released : s.inReset = false)
    (inBlock : offset < 2 ^ 17) (aligned : offset % 4 = 0) (h : s.schedule = writeAt s.cfg offset v :: es)
    (ignored : s.blk.writeTarget v (targetOf s.cfg (BitVec.ofNat 17 offset)) = s.blk) :
    step s = .next ((s.withSchedule es).answer .written) := by
  rw [step_of_writeAt s offset v es released inBlock aligned h, ignored]
  rfl

/-- Settles O44: what each offset names, and what a read of it returns and a write of it does. -/
theorem reservedReadsZeroAndIgnoresWrites : Obligations.ReservedReadsZeroAndIgnoresWrites := by
  refine fun s offset v es released inBlock aligned => ⟨fun ⟨high, noByte⟩ => ?_, fun readOnly write => ?_, ?_⟩
  · have same : (BitVec.ofNat 17 offset).toNat = offset := by rw [BitVec.toNat_ofNat, Nat.mod_eq_of_lt inBlock]
    have target := targetOf_reserved s.cfg (BitVec.ofNat 17 offset) (by rwa [same]) (by rwa [same])
    refine ⟨fun read => ?_, fun write => ?_⟩
    · rw [step_of_readAt s offset es released inBlock aligned read, target, Block.readTarget]
    · exact step_of_ignored_write s offset v es released inBlock aligned write (by rw [target]; rfl)
  · refine step_of_ignored_write s offset v es released inBlock aligned write ?_
    simp only [List.mem_cons, List.not_mem_nil, or_false] at readOnly
    obtain rfl | rfl | rfl | rfl := readOnly
    · rw [targetOf_status]; rfl
    · rw [targetOf_config]; rfl
    · rw [targetOf_capbits]; rfl
    · rw [targetOf_errcmd]; rfl
  · rintro rfl read
    rw [step_of_readAt s _ es released inBlock aligned read, targetOf_cmd, Block.readTarget]

/-! ## CMD -/

/-- A CMD write, case by case (20_memory.md R58). -/
theorem Block.writeCmd_eq {c : Config} (b : Block c) (w : Word) :
    b.writeCmd w =
      if b.err then b
      else if b.busy then { b with err := true, errCode := .overrun, errCmd := w }
      else { b with busy := true, done := false, cur := some ⟨w, b.x⟩ } := by
  cases err : b.err with
  | true => simp only [Block.writeCmd, err, if_true]
  | false => simp only [Block.writeCmd, Block.recordError, Block.accept, err, Bool.false_eq_true, if_false]

theorem step_of_cmdWrite (s : State) (w : Word) (es : List Event) (released : s.inReset = false)
    (h : s.schedule = cmdWrite s.cfg w :: es) :
    step s = .next (((s.withSchedule es).withBlk (s.blk.writeCmd w)).answer .written) := by
  rw [step_of_writeAt s 0x00000 w es released (by decide) (by decide) h, targetOf_cmd, Block.writeTarget]

/-- Settles O39, from the three cases of a CMD write. -/
theorem cmdWriteAcceptsRejectsOrDiscards : Obligations.CmdWriteAcceptsRejectsOrDiscards := by
  intro s w es released write
  rw [step_of_cmdWrite s w es released write, Block.writeCmd_eq]
  rfl

/-! ## The register window -/

theorem step_of_windowWrite (s : State) (r : Reg) (k : Nat) (v : Word) (es : List Event) (inReg : 32 * k < s.cfg.B)
    (released : s.inReset = false) (h : s.schedule = writeAt s.cfg (regByteOffset s.cfg r (4 * k)) v :: es) :
    step s = .next (((s.withSchedule es).withBlk (s.blk.writeWindow r k v)).answer .written) := by
  obtain ⟨inBlock, aligned⟩ := wordOffset_aligned s.cfg r k inReg
  rw [step_of_writeAt s _ v es released inBlock aligned h, targetOf_wordOffset s.cfg r k inReg, Block.writeTarget]

theorem step_of_windowRead (s : State) (r : Reg) (k : Nat) (es : List Event) (inReg : 32 * k < s.cfg.B)
    (released : s.inReset = false) (h : s.schedule = readAt s.cfg (regByteOffset s.cfg r (4 * k)) :: es) :
    step s = .next ((s.withSchedule es).answer (.data (getWord (s.blk.reg r) k))) := by
  obtain ⟨inBlock, aligned⟩ := wordOffset_aligned s.cfg r k inReg
  rw [step_of_readAt s _ es released inBlock aligned h, targetOf_wordOffset s.cfg r k inReg, Block.readTarget]

theorem Block.writeWindow_of_busy {c : Config} (b : Block c) (r : Reg) (k : Nat) (v : Word) (busy : b.busy = true) :
    b.writeWindow r k v = b.recordError .overrun 0 := if_pos busy

theorem Block.writeWindow_of_idle {c : Config} (b : Block c) (r : Reg) (k : Nat) (v : Word) (idle : b.busy = false) :
    b.writeWindow r k v = { b with x := b.x.set r.val (setWord (b.reg r) k v) } := if_neg (by simp [idle])

/-- Settles O40: while busy the write records an error and no more; when idle it replaces a bus word of the register. -/
theorem windowWriteLandsOrIsRejected : Obligations.WindowWriteLandsOrIsRejected := by
  intro s r k v es inReg released write
  rw [step_of_windowWrite s r k v es inReg released write]
  refine ⟨fun busy => ?_, fun idle => ⟨setWord (s.blk.reg r) k v, setWord_getLsbD (s.blk.reg r) k v, ?_⟩⟩
  · rw [s.blk.writeWindow_of_busy r k v busy, Block.recordError]; rfl
  · rw [s.blk.writeWindow_of_idle r k v idle]; rfl

/-- Settles O41: the read's target is the bus word of the register file, which a running command leaves alone. -/
theorem windowReadReturnsTheCommittedWord : Obligations.WindowReadReturnsTheCommittedWord := by
  intro s r k es inReg released read
  exact ⟨getWord (s.blk.reg r) k, getWord_getLsbD (s.blk.reg r) k, step_of_windowRead s r k es inReg released read⟩

theorem Block.writeWindow_busy {c : Config} (b : Block c) (r : Reg) (k : Nat) (v : Word) :
    (b.writeWindow r k v).busy = b.busy := by
  unfold Block.writeWindow
  split
  · exact b.recordError_busy _ _
  · rfl

theorem Block.recordError_recordError {c : Config} (b : Block c) (code : ErrCode) (w : Word) :
    (b.recordError code w).recordError code w = b.recordError code w := by
  rw [Block.recordError, if_pos (b.recordError_err code w)]

/-- A window write made twice: the second finds the first error recorded, or its own bits in place. -/
theorem Block.writeWindow_writeWindow {c : Config} (b : Block c) (r : Reg) (k : Nat) (v : Word) :
    (b.writeWindow r k v).writeWindow r k v = b.writeWindow r k v := by
  have kept := b.writeWindow_busy r k v
  cases busy : b.busy with
  | true =>
    rw [Block.writeWindow_of_busy _ r k v (kept.trans busy), b.writeWindow_of_busy r k v busy,
      b.recordError_recordError]
  | false =>
    rw [Block.writeWindow_of_idle _ r k v (kept.trans busy), b.writeWindow_of_idle r k v busy]
    simp only [Block.reg, readReg, Vector.getElem_set_self, setWord_setWord, Vector.set_set]

/-- Settles O45: a read only answers (`State.hostRead_cases`), and window writes are idempotent. -/
theorem readsHaveNoSideEffect : Obligations.ReadsHaveNoSideEffect := by
  refine ⟨fun s t addr size es read next => ?_, fun c b r k v => b.writeWindow_writeWindow r k v⟩
  rw [step_read s addr size es read] at next
  obtain ⟨a, e⟩ | ⟨_, e⟩ := State.hostRead_cases (s.withSchedule es) addr size <;> rw [e] at next <;> cases next
  exact ⟨a, rfl⟩

end Sys2Proof.Machine
end

section
/-! SUPPORT. What a running command writes, and that its result is fixed at acceptance (20_memory.md R59, R65). -/

namespace Sys2Proof.Machine

/-! ## The engine's turn -/

/-- At the engine's turn out of reset the latched word is run as the command it decodes to. -/
theorem State.engineTurn_of_latched (s : State) (l : Latch s.cfg) (i : Instr) (released : s.inReset = false)
    (busy : s.blk.busy = true) (cur : s.blk.cur = some l) (command : decode l.word = .ok i) :
    s.engineTurn = exec i s := by
  simp only [State.engineTurn, State.runWord, released, busy, cur, command, Bool.false_eq_true, if_false]

theorem State.engineTurn_of_idle (s : State) (released : s.inReset = false) (idle : s.blk.busy = false) :
    s.engineTurn = .next s := by
  simp only [State.engineTurn, released, idle, Bool.false_eq_true, if_false]

/-- Settles O7: scheduled or with nothing scheduled, the engine's turn runs the latched command on its snapshot. -/
theorem stepRunsTheLatchedCommand : Obligations.StepRunsTheLatchedCommand := by
  refine fun s l i es released busy cur command => ⟨fun engine => ?_, fun nothing => ?_,
    s.blk.operand_of_latched l cur⟩
  · rw [step_engine s es engine]
    exact State.engineTurn_of_latched (s.withSchedule es) l i released busy cur command
  · rw [step_nil s nothing]
    exact s.engineTurn_of_latched l i released busy cur command

/-- Settles O57: scheduled or with nothing scheduled, the engine's turn with no command running does nothing. -/
theorem idleBlockHoldsItsState : Obligations.IdleBlockHoldsItsState := by
  refine fun s es released idle => ⟨fun engine => ?_, fun nothing => ?_⟩
  · rw [step_engine s es engine]
    exact State.engineTurn_of_idle (s.withSchedule es) released idle
  · rw [step_nil s nothing]
    exact s.engineTurn_of_idle released idle

/-! ## The frame of a command -/

/-- A well-formed command whose divisor, if it has one, is not zero ends without an error. -/
theorem exec_commits (i : Instr) (s : State) (wf : i.wf = true)
    (divisor : ∀ r, i.divisor? = some r → s.operand r ≠ 0) : ∃ ws fl, exec i s = s.commit ws fl := by
  cases i with
  | div d a b | mod d a b => exact ⟨_, _, if_neg (divisor b rfl)⟩
  | divmod q r a b =>
    have differ : q ≠ r := by simpa [Instr.wf] using wf
    exact ⟨_, _, (if_neg differ).trans (if_neg (divisor b rfl))⟩
  | powmod d b e m => exact ⟨_, _, if_neg (divisor m rfl)⟩
  | _ => exact ⟨_, _, rfl⟩

/-- A commit keeps the error record and IE. -/
theorem Block.commitOk_record {c : Config} (b : Block c) (ws : List (Reg × c.Value)) (fl : FlagWrite) :
    (b.commitOk ws fl).err = b.err ∧ (b.commitOk ws fl).errCode = b.errCode ∧
    (b.commitOk ws fl).errCmd = b.errCmd ∧ (b.commitOk ws fl).ie = b.ie := by
  simp [Block.commitOk]

/-- Settles O33: a command commits writes to its own destinations and its own flags, or only enters an error, which
takes an ill-formed command or a zero divisor. -/
theorem commandsChangeOnlyWhatTheirRuleWrites : Obligations.CommandsChangeOnlyWhatTheirRuleWrites := by
  intro i s t run
  have errorFree (wf : i.wf = true) (divisor : ∀ r, i.divisor? = some r → s.operand r ≠ 0) :
      t.blk.err = s.blk.err ∧ t.blk.errCode = s.blk.errCode ∧ t.blk.errCmd = s.blk.errCmd := by
    obtain ⟨ws, fl, e⟩ := exec_commits i s wf divisor
    rw [e, State.commit_eq] at run
    cases run
    obtain ⟨err, code, word, _⟩ := s.blk.commitOk_record ws fl
    exact ⟨err, code, word⟩
  obtain ⟨ws, fl, e, dests, compares, tests⟩ | ⟨code, e⟩ := exec_cases i s
  · rw [e, State.commit_eq] at run
    cases run
    obtain ⟨_, _, _, ie⟩ := s.blk.commitOk_record ws fl
    have regs (r : Reg) (other : r ∉ i.dests) : (s.blk.commitOk ws fl).reg r = s.blk.reg r :=
      s.blk.commitOk_reg_of_not_mem ws fl r (dests ▸ other)
    exact ⟨rfl, rfl, rfl, rfl, ie, fun r other => congrArg BitVec.toNat (regs r other),
      fun o outside => Block.windowByte_congr _ s.blk o fun r byte => regs r fun dest => outside r dest byte,
      fun notCmp => s.blk.commitOk_order_flags ws fl (compares notCmp),
      fun notTst => s.blk.commitOk_z ws fl (tests notTst), errorFree⟩
  · rw [e, State.raise_eq] at run
    cases run
    exact ⟨rfl, rfl, rfl, rfl, rfl, fun _ _ => rfl, fun _ _ => rfl, fun _ => ⟨rfl, rfl, rfl⟩, fun _ => rfl,
      errorFree⟩

/-! ## The result of a command is fixed at its acceptance -/

/-- `b'` is `b` but for DONE, IE and the error record, none of which a command reads. -/
def Block.UpToRecord {c : Config} (b' b : Block c) : Prop :=
  ∃ done err errCode ie errCmd,
    b' = { b with done := done, err := err, errCode := errCode, ie := ie, errCmd := errCmd }

theorem Block.UpToRecord.refl {c : Config} (b : Block c) : b.UpToRecord b := ⟨_, _, _, _, _, rfl⟩

theorem Block.UpToRecord.trans {c : Config} {b b' b'' : Block c} (h' : b''.UpToRecord b') (h : b'.UpToRecord b) :
    b''.UpToRecord b := by
  obtain ⟨_, _, _, _, _, rfl⟩ := h
  obtain ⟨_, _, _, _, _, rfl⟩ := h'
  exact ⟨_, _, _, _, _, rfl⟩

theorem Block.UpToRecord.busy {c : Config} {b b' : Block c} (h : b'.UpToRecord b) : b'.busy = b.busy := by
  obtain ⟨_, _, _, _, _, rfl⟩ := h
  rfl

theorem Block.UpToRecord.cur {c : Config} {b b' : Block c} (h : b'.UpToRecord b) : b'.cur = b.cur := by
  obtain ⟨_, _, _, _, _, rfl⟩ := h
  rfl

theorem Block.recordError_upToRecord {c : Config} (b : Block c) (code : ErrCode) (w : Word) :
    (b.recordError code w).UpToRecord b := by
  unfold Block.recordError
  split
  · exact .refl b
  · exact ⟨_, _, _, _, _, rfl⟩

/-- While a command runs, a host write reaches DONE, IE and the error record alone (20_memory.md R57, R58). -/
theorem Block.writeTarget_upToRecord {c : Config} (b : Block c) (v : Word) (target : Target) (busy : b.busy = true) :
    (b.writeTarget v target).UpToRecord b := by
  cases target with
  | cmd =>
    rw [Block.writeTarget, Block.writeCmd, if_pos busy]
    split
    · exact .refl b
    · exact b.recordError_upToRecord _ _
  | ctrl =>
    rw [Block.writeTarget, Block.writeCtrl_eq]
    exact ⟨_, _, _, _, _, rfl⟩
  | window r k =>
    rw [Block.writeTarget, b.writeWindow_of_busy r k v busy]
    exact b.recordError_upToRecord _ _
  | status | config | capbits | errcmd | reserved => exact .refl b

/-- A host access while a command runs, out of reset. -/
theorem step_of_access (s : State) (e : Event) (es : List Event) (released : s.inReset = false)
    (busy : s.blk.busy = true) (access : e.isAccess = true) (h : s.schedule = e :: es) :
    ∃ b a, step s = .next { s with blk := b, schedule := es, response := a } ∧ b.UpToRecord s.blk := by
  cases e with
  | read addr size =>
    rw [step_read s addr size es h]
    obtain ⟨a, read⟩ | ⟨asserted, _⟩ := State.hostRead_cases (s.withSchedule es) addr size
    · exact ⟨s.blk, some a, read, .refl _⟩
    · exact absurd (released.symm.trans asserted) (by decide)
  | write addr size v =>
    rw [step_write s addr size v es h]
    obtain ⟨o, _, _, _, _, landed⟩ | ⟨a, missed⟩ | ⟨asserted, _⟩ :=
      State.hostWrite_cases (s.withSchedule es) addr size v
    · exact ⟨_, some .written, landed, s.blk.writeTarget_upToRecord v _ busy⟩
    · exact ⟨s.blk, some a, missed, .refl _⟩
    · exact absurd (released.symm.trans asserted) (by decide)
  | engine | resetPin _ => exact absurd access nofun

/-- Any list of host accesses while a command runs, with what the run does after them left open. -/
theorem runSteps_of_accesses (accesses rest : List Event) (s : State) (released : s.inReset = false)
    (busy : s.blk.busy = true) (access : accesses.all Event.isAccess = true) (h : s.schedule = accesses ++ rest) :
    ∃ b a, b.UpToRecord s.blk ∧ ∀ k, runSteps (k + accesses.length) s =
      runSteps k { s with blk := b, schedule := rest, response := a } := by
  induction accesses generalizing s with
  | nil => exact ⟨s.blk, s.response, .refl _, fun k => by rw [← List.nil_append rest, ← h]; rfl⟩
  | cons e es ih =>
    rw [List.all_cons, Bool.and_eq_true] at access
    obtain ⟨b, a, first, same⟩ := step_of_access s e (es ++ rest) released busy access.1 h
    obtain ⟨b', a', same', run⟩ := ih { s with blk := b, schedule := es ++ rest, response := a } released
      (same.busy.trans busy) access.2 rfl
    refine ⟨b', a', same'.trans same, fun k => ?_⟩
    rw [List.length_cons, ← Nat.add_assoc, runSteps, first]
    exact run k

/-- A command commits the same writes and flags, or raises the same error, whatever the record and the schedule. -/
theorem exec_upToRecord (i : Instr) (s : State) (b : Block s.cfg) (h : b.UpToRecord s.blk) (es : List Event)
    (a : Option Response) :
    (∃ ws fl, exec i s = s.commit ws fl ∧
      exec i { s with blk := b, schedule := es, response := a } =
        State.commit { s with blk := b, schedule := es, response := a } ws fl) ∨
    ∃ code, exec i s = s.raise code ∧
      exec i { s with blk := b, schedule := es, response := a } =
        State.raise { s with blk := b, schedule := es, response := a } code := by
  obtain ⟨_, _, _, _, _, rfl⟩ := h
  cases i with
  | div d a b | mod d a b =>
    by_cases zero : s.operand b = 0
    · exact .inr ⟨.divz, if_pos zero, if_pos zero⟩
    · exact .inl ⟨_, _, if_neg zero, if_neg zero⟩
  | divmod q r a b =>
    by_cases same : q = r
    · exact .inr ⟨.illegal, if_pos same, if_pos same⟩
    by_cases zero : s.operand b = 0
    · exact .inr ⟨.divz, (if_neg same).trans (if_pos zero), (if_neg same).trans (if_pos zero)⟩
    · exact .inl ⟨_, _, (if_neg same).trans (if_neg zero), (if_neg same).trans (if_neg zero)⟩
  | powmod d b e m =>
    by_cases zero : s.operand m = 0
    · exact .inr ⟨.divz, if_pos zero, if_pos zero⟩
    · exact .inl ⟨_, _, if_neg zero, if_neg zero⟩
  | _ => exact .inl ⟨_, _, rfl, rfl⟩

/-- Registers and flags after a commit do not depend on the record before it. -/
theorem Block.UpToRecord.commitOk {c : Config} {b b' : Block c} (h : b'.UpToRecord b) (ws : List (Reg × c.Value))
    (fl : FlagWrite) : (b'.commitOk ws fl).UpToRecord (b.commitOk ws fl) := by
  obtain ⟨_, _, _, _, _, rfl⟩ := h
  cases fl <;> exact ⟨_, _, _, _, _, rfl⟩

theorem Block.UpToRecord.commitError {c : Config} {b b' : Block c} (h : b'.UpToRecord b) (code : ErrCode) :
    (b'.commitError code).UpToRecord (b.commitError code) := by
  obtain ⟨_, _, _, _, _, rfl⟩ := h
  rw [Block.commitError_eq, Block.commitError_eq]
  exact ⟨_, _, _, _, _, rfl⟩

/-- The ends of a command from two such blocks: no command running, DONE set, and alike but for IE and the record. -/
theorem exec_ends_alike (i : Instr) (s : State) (b : Block s.cfg) (h : b.UpToRecord s.blk) (es : List Event)
    (a : Option Response) :
    ∃ atOnce later : Block s.cfg, exec i s = .next (s.withBlk atOnce) ∧
      exec i { s with blk := b, schedule := es, response := a } =
        .next { s with blk := later, schedule := es, response := a } ∧
      later.UpToRecord atOnce ∧ later.busy = false ∧ later.done = true := by
  obtain ⟨ws, fl, e, e'⟩ | ⟨code, e, e'⟩ := exec_upToRecord i s b h es a
  · exact ⟨_, _, e, e', h.commitOk ws fl, rfl, rfl⟩
  · exact ⟨_, _, e, e', h.commitError code, rfl, rfl⟩

/-- An idle block out of reset and without an error accepts the word. -/
theorem step_of_acceptance (s : State) (w : Word) (es : List Event) (released : s.inReset = false)
    (noErr : s.blk.err = false) (idle : s.blk.busy = false) (h : s.schedule = cmdWrite s.cfg w :: es) :
    step s = .next { s with blk := s.blk.accept w, schedule := es, response := some .written } := by
  have accepts : s.blk.writeCmd w = s.blk.accept w := by
    simp only [Block.writeCmd, noErr, idle, Bool.false_eq_true, if_false]
  rw [step_of_cmdWrite s w es released h, accepts]
  rfl

theorem runSteps_one (s : State) : runSteps 1 s = step s := by
  rw [runSteps]
  cases step s <;> rfl

/-- Settles O56: acceptance, then accesses that leave the latch, the registers and the flags, then the engine's turn. -/
theorem commitIsFixedAtAcceptance : Obligations.CommitIsFixedAtAcceptance := by
  intro s w i accesses rest released noErr idle command access write
  have accepted := step_of_acceptance s w _ released noErr idle write
  obtain ⟨b, a, same, run⟩ := runSteps_of_accesses accesses (.engine :: rest)
    { s with blk := s.blk.accept w, schedule := accesses ++ .engine :: rest, response := some .written }
    released rfl access rfl
  obtain ⟨atOnce, later, e, e', alike, busy, done⟩ := exec_ends_alike i (s.withBlk (s.blk.accept w)) b same rest a
  refine ⟨atOnce, later, a, e, ?_, ?_⟩
  · calc runSteps (accesses.length + 2) s
        = runSteps (1 + accesses.length) { s with
            blk := s.blk.accept w, schedule := accesses ++ .engine :: rest, response := some .written } := by
          rw [Nat.add_comm accesses.length, Nat.add_right_comm 1 1, runSteps, accepted]
      _ = runSteps 1 { s with blk := b, schedule := .engine :: rest, response := a } := run 1
      _ = State.engineTurn { s with blk := b, schedule := rest, response := a } := runSteps_one _
      _ = exec i { s with blk := b, schedule := rest, response := a } :=
          State.engineTurn_of_latched { s with blk := b, schedule := rest, response := a } ⟨w, s.blk.x⟩ i released
            same.busy same.cur command
      _ = .next { s with blk := later, schedule := rest, response := a } := e'
      _ = .next ⟨s.cfg, later, false, rest, a⟩ := by rw [released]
  · obtain ⟨_, _, _, _, _, rfl⟩ := alike
    exact ⟨rfl, rfl, rfl, rfl, rfl, busy, done⟩

end Sys2Proof.Machine
end

section
/-! SUPPORT. The encoding (30_encoding.md R71 to R75): the fields of a word, the fixed bits of the formats, the rows of
the opcode map, and the decoder as the inverse of the encoder. -/

namespace Sys2Proof

/-! ## The fields of a word (30_encoding.md R71) -/

/-- Bits 7:0, which every register format fixes at zero. -/
def lowByte (w : Word) : BitVec 8 := w.extractLsb' 0 8

theorem opField_toNat (w : Word) : (opField w).toNat = w.toNat / 2 ^ 24 % 2 ^ 8 := by
  simp [opField, Nat.shiftRight_eq_div_pow]

theorem regField_val (lo : Nat) (w : Word) : (regField lo w).val = w.toNat / 2 ^ lo % 2 ^ 4 := by
  simp [regField, Nat.shiftRight_eq_div_pow]

theorem fieldImm16_toNat (w : Word) : (fieldImm16 w).toNat = w.toNat % 2 ^ 16 := by simp [fieldImm16]

theorem lowByte_toNat (w : Word) : (lowByte w).toNat = w.toNat % 2 ^ 8 := by simp [lowByte]

theorem opField_and (w v : Word) : opField (w &&& v) = opField w &&& opField v := BitVec.extractLsb'_and
theorem lowByte_and (w v : Word) : lowByte (w &&& v) = lowByte w &&& lowByte v := BitVec.extractLsb'_and

theorem regField_and (lo : Nat) (w v : Word) : regField lo (w &&& v) = regField lo w &&& regField lo v := by
  rw [Fin.ext_iff]
  simp [regField, BitVec.extractLsb'_and]

theorem fieldA_and (w v : Word) : fieldA (w &&& v) = fieldA w &&& fieldA v := regField_and 20 w v
theorem fieldB_and (w v : Word) : fieldB (w &&& v) = fieldB w &&& fieldB v := regField_and 16 w v
theorem fieldC_and (w v : Word) : fieldC (w &&& v) = fieldC w &&& fieldC v := regField_and 12 w v
theorem fieldD_and (w v : Word) : fieldD (w &&& v) = fieldD w &&& fieldD v := regField_and 8 w v

/-! ## The register layout and the immediate layout (30_encoding.md R71) -/

theorem append_toNat {m n : Nat} (x : BitVec m) (y : BitVec n) : (x ++ y).toNat = x.toNat * 2 ^ n + y.toNat := by
  rw [BitVec.toNat_append, ← Nat.shiftLeft_add_eq_or_of_lt y.isLt, Nat.shiftLeft_eq]

theorem reg_lt (r : Reg) : r.val < 16 := r.isLt

theorem regBits_toNat (r : Reg) : (regBits r).toNat = r.val := Nat.mod_eq_of_lt r.isLt

theorem packRegs_toNat (op : BitVec 8) (a b c d : Reg) : (packRegs op a b c d).toNat =
    op.toNat * 2 ^ 24 + a.val * 2 ^ 20 + b.val * 2 ^ 16 + c.val * 2 ^ 12 + d.val * 2 ^ 8 := by
  simp only [packRegs, append_toNat, regBits_toNat, BitVec.toNat_ofNat]
  omega

theorem packImm_toNat (op : BitVec 8) (a b : Reg) (imm : BitVec 16) : (packImm op a b imm).toNat =
    op.toNat * 2 ^ 24 + a.val * 2 ^ 20 + b.val * 2 ^ 16 + imm.toNat := by
  simp only [packImm, append_toNat, regBits_toNat]
  omega

@[simp] theorem fields_packRegs (op : BitVec 8) (a b c d : Reg) :
    fieldA (packRegs op a b c d) = a ∧ fieldB (packRegs op a b c d) = b ∧
    fieldC (packRegs op a b c d) = c ∧ fieldD (packRegs op a b c d) = d := by
  have bounds := And.intro (And.intro (reg_lt a) (reg_lt b)) (And.intro (reg_lt c) (reg_lt d))
  simp only [Fin.ext_iff, fieldA, fieldB, fieldC, fieldD, regField_val, packRegs_toNat]
  omega

@[simp] theorem lowByte_packRegs (op : BitVec 8) (a b c d : Reg) : lowByte (packRegs op a b c d) = 0 :=
  BitVec.extractLsb'_append_eq_right

@[simp] theorem fields_packImm (op : BitVec 8) (a b : Reg) (imm : BitVec 16) :
    fieldA (packImm op a b imm) = a ∧ fieldB (packImm op a b imm) = b := by
  have bounds := And.intro (reg_lt a) (reg_lt b)
  simp only [Fin.ext_iff, fieldA, fieldB, regField_val, packImm_toNat]
  omega

@[simp] theorem fieldImm16_packImm (op : BitVec 8) (a b : Reg) (imm : BitVec 16) :
    fieldImm16 (packImm op a b imm) = imm := BitVec.extractLsb'_append_eq_right

/-- A word is one of the register layout exactly when its fields say so and its low byte is zero. -/
theorem packRegs_eq_iff (w : Word) (op : BitVec 8) (a b c d : Reg) : packRegs op a b c d = w ↔
    opField w = op ∧ fieldA w = a ∧ fieldB w = b ∧ fieldC w = c ∧ fieldD w = d ∧ lowByte w = 0 := by
  constructor
  · rintro rfl
    simp [opField_packRegs]
  · rintro ⟨rfl, rfl, rfl, rfl, rfl, low⟩
    have low : w.toNat % 2 ^ 8 = 0 := by rw [← lowByte_toNat, low]; rfl
    rw [← BitVec.toNat_inj, packRegs_toNat]
    simp only [fieldA, fieldB, fieldC, fieldD, regField_val, opField_toNat]
    omega

/-- A word is one of the immediate layout exactly when its fields say so. -/
theorem packImm_eq_iff (w : Word) (op : BitVec 8) (a b : Reg) (imm : BitVec 16) : packImm op a b imm = w ↔
    opField w = op ∧ fieldA w = a ∧ fieldB w = b ∧ fieldImm16 w = imm := by
  constructor
  · rintro rfl
    simp [opField_packImm]
  · rintro ⟨rfl, rfl, rfl, rfl⟩
    rw [← BitVec.toNat_inj, packImm_toNat]
    simp only [fieldA, fieldB, regField_val, fieldImm16_toNat, opField_toNat]
    omega

/-! ## The fixed bits of a format, field by field (30_encoding.md R73) -/

theorem matchWord_eq_packRegs (op : BitVec 8) : matchWord op = packRegs op 0 0 0 0 := by
  rw [← BitVec.toNat_inj, packRegs_toNat, matchWord, append_toNat]
  simp

theorem reg_and_ones (r : Reg) : r &&& 15 = r := by decide +revert

theorem reg_and_zero (r : Reg) : r &&& 0 = 0 := by decide +revert

theorem byte_and_ones (x : BitVec 8) : x &&& 255#8 = x := BitVec.and_allOnes

theorem opField_mask (f : Format) : opField f.mask = 255 := by cases f <;> rfl

theorem fieldA_mask (f : Format) : fieldA f.mask = match f with | .rc | .rt => 15 | _ => 0 := by cases f <;> rfl

theorem fieldB_mask (f : Format) : fieldB f.mask = match f with | .r1 | .i => 15 | _ => 0 := by cases f <;> rfl

theorem fieldC_mask (f : Format) : fieldC f.mask = match f with | .r2 | .r1 | .rt => 15 | _ => 0 := by
  cases f <;> rfl

theorem fieldD_mask (f : Format) : fieldD f.mask = match f with | .r4 | .ri | .i => 0 | _ => 15 := by cases f <;> rfl

theorem lowByte_mask (f : Format) : lowByte f.mask = match f with | .ri | .i => 0 | _ => 255 := by cases f <;> rfl

/-! ## The command that a row reads from a word -/

/-- The row of a command in the opcode map (30_encoding.md R73). -/
def Instr.row (i : Instr) : OpcodeRow := ⟨i.mnemonic, i.format.mask, matchWord i.opcode⟩

/-- The command of the same row whose operands are the fields of `w` (30_encoding.md R73). -/
def Instr.withFields (w : Word) : Instr → Instr
  | .add _ _ _ => .add (fieldA w) (fieldB w) (fieldC w)
  | .sub _ _ _ => .sub (fieldA w) (fieldB w) (fieldC w)
  | .inc _ => .inc (fieldA w)
  | .dec _ => .dec (fieldA w)
  | .mul _ _ _ => .mul (fieldA w) (fieldB w) (fieldC w)
  | .div _ _ _ => .div (fieldA w) (fieldB w) (fieldC w)
  | .mod _ _ _ => .mod (fieldA w) (fieldB w) (fieldC w)
  | .divmod _ _ _ _ => .divmod (fieldA w) (fieldD w) (fieldB w) (fieldC w)
  | .and _ _ _ => .and (fieldA w) (fieldB w) (fieldC w)
  | .or _ _ _ => .or (fieldA w) (fieldB w) (fieldC w)
  | .xor _ _ _ => .xor (fieldA w) (fieldB w) (fieldC w)
  | .lsh _ _ _ => .lsh (fieldA w) (fieldB w) (fieldC w)
  | .rsh _ _ _ => .rsh (fieldA w) (fieldB w) (fieldC w)
  | .lshi _ _ _ => .lshi (fieldA w) (fieldB w) (fieldImm16 w)
  | .rshi _ _ _ => .rshi (fieldA w) (fieldB w) (fieldImm16 w)
  | .pow _ _ _ => .pow (fieldA w) (fieldB w) (fieldC w)
  | .powmod _ _ _ _ => .powmod (fieldA w) (fieldB w) (fieldC w) (fieldD w)
  | .cmp _ _ => .cmp (fieldB w) (fieldC w)
  | .tst _ => .tst (fieldB w)
  | .mov _ _ => .mov (fieldA w) (fieldB w)
  | .li _ _ => .li (fieldA w) (fieldImm16 w)

theorem opcode_withFields (i : Instr) (w : Word) : (i.withFields w).opcode = i.opcode := by cases i <;> rfl

theorem mnemonic_withFields (i : Instr) (w : Word) : (i.withFields w).mnemonic = i.mnemonic := by cases i <;> rfl

theorem opField_encode (i : Instr) : opField (encode i) = i.opcode := by
  cases i with
  | lshi | rshi | li => exact opField_packImm _ _ _ _
  | _ => exact opField_packRegs _ _ _ _ _

/-- A command's word holds all its operands. -/
theorem withFields_encode (i : Instr) : i.withFields (encode i) = i := by
  cases i <;> simp [Instr.withFields, encode]

/-- A word has the fixed bits of a row exactly when encoding what the row reads from it gives the word back: the bits
that the mask leaves free are the operands. -/
theorem row_matches_iff (i : Instr) (w : Word) : i.row.matches w ↔ encode (i.withFields w) = w := by
  rw [OpcodeRow.matches, Instr.row, matchWord_eq_packRegs, eq_comm, packRegs_eq_iff]
  simp only [opField_and, fieldA_and, fieldB_and, fieldC_and, fieldD_and, lowByte_and, opField_mask, fieldA_mask,
    fieldB_mask, fieldC_mask, fieldD_mask, lowByte_mask]
  cases i <;> simp [Instr.format, Instr.withFields, encode, packRegs_eq_iff, packImm_eq_iff, Instr.opcode,
    reg_and_ones, reg_and_zero, byte_and_ones]

theorem row_matches_encode (i : Instr) : i.row.matches (encode i) := by
  rw [row_matches_iff, withFields_encode]

theorem opField_of_row_matches {i : Instr} {w : Word} (fixed : i.row.matches w) : opField w = i.opcode := by
  rw [← (row_matches_iff i w).mp fixed, opField_encode, opcode_withFields]

/-- DIVMOD's own check, read from the command's word (30_encoding.md R74). -/
theorem wf_iff_fields_encode (i : Instr) :
    i.wf = true ↔ (i.mnemonic = "DIVMOD" → fieldA (encode i) ≠ fieldD (encode i)) := by
  cases i with
  | divmod => simp [Instr.wf, Instr.mnemonic, encode]
  | _ => simp [Instr.wf, Instr.mnemonic]

/-! ## The rows of the opcode map (30_encoding.md R73) -/

/-- One command of each row, in the order of the map. -/
def oneOfEachRow : List Instr :=
  [.add 0 0 0, .sub 0 0 0, .inc 0, .dec 0, .mul 0 0 0, .div 0 0 0, .mod 0 0 0, .divmod 0 1 0 0, .and 0 0 0, .or 0 0 0,
   .xor 0 0 0, .lsh 0 0 0, .rsh 0 0 0, .lshi 0 0 0, .rshi 0 0 0, .pow 0 0 0, .powmod 0 0 0 0, .cmp 0 0, .tst 0,
   .mov 0 0, .li 0 0]

theorem opcodeMap_eq : opcodeMap = oneOfEachRow.map Instr.row := by decide

theorem opcodes_of_oneOfEachRow : oneOfEachRow.map (fun i => i.opcode.toNat) = List.range' 1 21 := by decide

theorem opcodeMap_at_opcode (i : Instr) : opcodeMap[i.opcode.toNat - 1]? = some i.row := by
  rw [opcodeMap_eq, List.getElem?_map]
  cases i <;> rfl

theorem row_mem_opcodeMap (i : Instr) : i.row ∈ opcodeMap := List.mem_of_getElem? (opcodeMap_at_opcode i)

theorem row_eq_of_opcode_eq {i j : Instr} (same : i.opcode = j.opcode) : i.row = j.row :=
  Option.some.inj (by rw [← opcodeMap_at_opcode, ← opcodeMap_at_opcode, same])

theorem exists_row_of_mem_opcodeMap {row : OpcodeRow} (mem : row ∈ opcodeMap) : ∃ i : Instr, i.row = row := by
  rw [opcodeMap_eq] at mem
  obtain ⟨i, _, e⟩ := List.mem_map.mp mem
  exact ⟨i, e⟩

theorem exists_opcode (op : BitVec 8) (defined : op.toNat ≠ 0) (low : op.toNat < 0x16) :
    ∃ i : Instr, i.opcode = op := by
  have mem : op.toNat ∈ oneOfEachRow.map (fun i => i.opcode.toNat) := by
    rw [opcodes_of_oneOfEachRow, List.mem_range'_1]
    omega
  obtain ⟨i, _, same⟩ := List.mem_map.mp mem
  exact ⟨i, BitVec.eq_of_toNat_eq same⟩

/-- At most one row matches a word, because the opcodes differ (30_encoding.md R74). -/
theorem row_unique {row row' : OpcodeRow} {w : Word} (mem : row ∈ opcodeMap) (mem' : row' ∈ opcodeMap)
    (fixed : row.matches w) (fixed' : row'.matches w) : row = row' := by
  obtain ⟨i, rfl⟩ := exists_row_of_mem_opcodeMap mem
  obtain ⟨j, rfl⟩ := exists_row_of_mem_opcodeMap mem'
  exact row_eq_of_opcode_eq ((opField_of_row_matches fixed).symm.trans (opField_of_row_matches fixed'))

/-! ## What the decoder does with each opcode (30_encoding.md R74, R75) -/

theorem decode_of_reserved (w : Word) (reserved : (opField w).toNat = 0 ∨ 0x16 ≤ (opField w).toNat) :
    decode w = .error .reservedOpcode := by
  unfold decode
  split
  case h_22 => rfl
  all_goals omega

/-- DIVMOD's own check lets every well-formed command through. -/
theorem decodeAs_bind_of_wf (f : Format) (op : BitVec 8) (w : Word) (i : Instr) (wf : i.wf = true) :
    (decodeAs f op w i).bind refuseSameDestinations = decodeAs f op w i := by
  unfold decodeAs
  split
  · exact if_pos wf
  · rfl

theorem decodeAs_bind_eq_ok_iff (f : Format) (op : BitVec 8) (w : Word) (i j : Instr) :
    (decodeAs f op w i).bind refuseSameDestinations = .ok j ↔
      w &&& f.mask = matchWord op ∧ i.wf = true ∧ i = j := by
  unfold decodeAs
  split
  case isTrue fixed => cases wf : i.wf <;> simp [Except.bind, refuseSameDestinations, wf, fixed]
  case isFalse bad => simp [Except.bind, bad]

theorem decode_of_opcode (i : Instr) (w : Word) (op : opField w = i.opcode) :
    decode w = (decodeAs i.format i.opcode w (i.withFields w)).bind refuseSameDestinations := by
  have number := congrArg BitVec.toNat op
  cases i with
  | divmod => rw [decode, number]; rfl
  | _ => rw [decodeAs_bind_of_wf _ _ _ _ rfl, decode, number]; rfl

/-! ## Decoding is the inverse of encoding -/

theorem decode_eq_ok_iff (w : Word) (i : Instr) : decode w = .ok i ↔ encode i = w ∧ i.wf = true := by
  constructor
  · intro command
    by_cases reserved : (opField w).toNat = 0 ∨ 0x16 ≤ (opField w).toNat
    · rw [decode_of_reserved w reserved] at command
      cases command
    · obtain ⟨j, op⟩ := exists_opcode (opField w) (by omega) (by omega)
      rw [decode_of_opcode j w op.symm, decodeAs_bind_eq_ok_iff] at command
      obtain ⟨fixed, wf, rfl⟩ := command
      exact ⟨(row_matches_iff j w).mp fixed, wf⟩
  · rintro ⟨rfl, wf⟩
    rw [decode_of_opcode i _ (opField_encode i), decodeAs_bind_eq_ok_iff, withFields_encode]
    exact ⟨row_matches_encode i, wf, rfl⟩

/-- A word is a command exactly when a row of the map matches it and DIVMOD's two destinations differ. -/
theorem exists_decode_iff (w : Word) : (∃ i, decode w = .ok i) ↔
    ∃ row ∈ opcodeMap, row.matches w ∧ (row.mnemonic = "DIVMOD" → fieldA w ≠ fieldD w) := by
  constructor
  · rintro ⟨i, command⟩
    obtain ⟨rfl, wf⟩ := (decode_eq_ok_iff w i).mp command
    exact ⟨i.row, row_mem_opcodeMap i, row_matches_encode i, (wf_iff_fields_encode i).mp wf⟩
  · rintro ⟨row, mem, fixed, differ⟩
    obtain ⟨i, rfl⟩ := exists_row_of_mem_opcodeMap mem
    have word := (row_matches_iff i w).mp fixed
    refine ⟨i.withFields w, (decode_eq_ok_iff _ _).mpr ⟨word, (wf_iff_fields_encode _).mpr ?_⟩⟩
    rwa [word, mnemonic_withFields]

end Sys2Proof
end

section
/-! SUPPORT. The statements of 30_encoding.md: the decoder, a word at its commit, the pseudo-instructions. -/

namespace Sys2Proof.Machine

/-- Settles O1: a command's word has the fixed bits of its row, and its fields are the operands. -/
theorem decodeOfEncodeIsTheCommand : Obligations.DecodeOfEncodeIsTheCommand :=
  fun i wf => (decode_eq_ok_iff (encode i) i).mpr ⟨rfl, wf⟩

/-- Settles O2: a word with the fixed bits of a row has nothing in it but the row's opcode and the operands. -/
theorem encodeOfDecodeIsTheWord : Obligations.EncodeOfDecodeIsTheWord :=
  fun w i => (decode_eq_ok_iff w i).mp

/-- At the engine's turn out of reset a latched word that is no command raises ILLEGAL (60_exceptions.md R222). -/
theorem State.engineTurn_of_illegal (s : State) (l : Latch s.cfg) (released : s.inReset = false)
    (busy : s.blk.busy = true) (cur : s.blk.cur = some l) (illegal : ∀ i, decode l.word ≠ .ok i) :
    s.engineTurn = .next (s.withBlk (s.blk.afterError .illegal l.word)) := by
  obtain ⟨i, command, _⟩ | ⟨_, _, run⟩ := s.runWord_cases l.word
  · exact absurd command (illegal i)
  · rw [← s.blk.curWord_of_latched l cur, ← s.raise_eq, ← run]
    simp only [State.engineTurn, released, busy, cur, Bool.false_eq_true, if_false]

/-- Settles O3: each row is the row of a command, and the engine runs the latched word or raises ILLEGAL. -/
theorem decodingFollowsTheOpcodeMap : Obligations.DecodingFollowsTheOpcodeMap := by
  refine ⟨fun w => ⟨exists_decode_iff w, fun i command => ?_, fun _ mem _ mem' => row_unique mem mem'⟩,
    fun s l released busy cur => ⟨fun i => s.engineTurn_of_latched l i released busy cur,
      s.engineTurn_of_illegal l released busy cur⟩⟩
  obtain ⟨rfl, _⟩ := (decode_eq_ok_iff w i).mp command
  exact ⟨i.row, row_mem_opcodeMap i, row_matches_encode i, rfl⟩

/-- Settles O4: no row has a reserved opcode, so the decoder rejects the word and the engine raises ILLEGAL. -/
theorem reservedOpcodesAreIllegal : Obligations.ReservedOpcodesAreIllegal := by
  intro w reserved
  have rejected := decode_of_reserved w reserved
  refine ⟨rejected, fun s l released busy cur word => ?_⟩
  subst word
  exact s.engineTurn_of_illegal l released busy cur (by simp [rejected])

/-- Settles O6: each expansion is an equation of `Pseudo.expand`. -/
theorem pseudoInstructionsExpand : Obligations.PseudoInstructionsExpand :=
  fun _ _ => ⟨rfl, rfl, rfl, rfl⟩

end Sys2Proof.Machine
end

section
/-! SUPPORT. Words given by their fields as numbers (30_encoding.md R71), and the decoder on them. -/

namespace Sys2Proof

theorem fieldsWord_eq_packRegs (op : BitVec 8) (a b c d : Reg) :
    fieldsWord op.toNat a b c d = packRegs op a b c d := by
  rw [fieldsWord, ← packRegs_toNat, BitVec.ofNat_toNat, BitVec.setWidth_eq]

theorem immFieldsWord_eq_packImm (op : BitVec 8) (a b : Reg) (imm : BitVec 16) :
    immFieldsWord op.toNat a b imm = packImm op a b imm := by
  rw [immFieldsWord, ← packImm_toNat, BitVec.ofNat_toNat, BitVec.setWidth_eq]

/-- The word with a command's opcode, and its registers at the places its format gives them, decodes to the command. -/
theorem decode_fieldsWord {i : Instr} {op : Nat} {a b c d : Reg} (number : i.opcode.toNat = op)
    (layout : encode i = packRegs i.opcode a b c d) (wf : i.wf = true) : decode (fieldsWord op a b c d) = .ok i := by
  rw [← number, fieldsWord_eq_packRegs, ← layout]
  exact (decode_eq_ok_iff _ i).mpr ⟨rfl, wf⟩

/-- The same for a command with an immediate. -/
theorem decode_immFieldsWord {i : Instr} {op : Nat} {a b : Reg} {imm : BitVec 16} (number : i.opcode.toNat = op)
    (layout : encode i = packImm i.opcode a b imm) (wf : i.wf = true) : decode (immFieldsWord op a b imm) = .ok i := by
  rw [← number, immFieldsWord_eq_packImm, ← layout]
  exact (decode_eq_ok_iff _ i).mpr ⟨rfl, wf⟩

end Sys2Proof
end

section
/-! SUPPORT. The statements of 41_move_compare.md: the words and the results of MOV, LI, CMP and TST (R100 to R103). -/

namespace Sys2Proof.Machine

/-- The commit of a command that writes one register and no flag (20_memory.md R59). -/
theorem State.commit_one (s : State) (d : Reg) (v : s.cfg.Value) :
    s.commit [(d, v)] .none = .next (s.withBlk (s.blk.afterCommit (s.blk.x.set d.val v))) := rfl

theorem exec_mov (s : State) (d a : Reg) : exec (.mov d a) s = s.commit [(d, s.operand a)] .none := rfl

theorem exec_li (s : State) (d : Reg) (imm : BitVec 16) :
    exec (.li d imm) s = s.commit [(d, immValue s.cfg imm)] .none := rfl

theorem exec_cmp (s : State) (a b : Reg) :
    exec (.cmp a b) s = s.commit [] (.compare (compareLimbs (s.operand a) (s.operand b))) := rfl

theorem exec_tst (s : State) (a : Reg) :
    exec (.tst a) s = s.commit [] (.zero (isZeroLimbs (s.operand a))) := rfl

theorem immValue_eq (c : Config) (imm : BitVec 16) : immValue c imm = BitVec.ofNat c.B imm.toNat :=
  (BitVec.ofNat_toNat c.B imm).symm

/-- A register is at least 32 bits wide, so the immediate is never cut (30_encoding.md R72). -/
theorem immValue_toNat (c : Config) (imm : BitVec 16) : (immValue c imm).toNat = imm.toNat :=
  BitVec.toNat_setWidth_of_le (Nat.le_trans (by decide) c.B_ge)

/-- Settles O24: the comparator is the order of the values, which the three flags name. -/
theorem cmpCommitsTheOrder : Obligations.CmpCommitsTheOrder := by
  refine fun s a b => ⟨decode_fieldsWord rfl rfl rfl, ?_⟩
  obtain ⟨eq, lt, gt⟩ := order_flags_eq (s.operand a).toNat (s.operand b).toNat
  rw [exec_cmp, State.commit_eq, Block.commitOk_compare, compareLimbs_eq, eq, lt, gt]

/-- Settles O25: every limb is 0 exactly when the value is. -/
theorem tstCommitsTheZeroTest : Obligations.TstCommitsTheZeroTest := by
  refine fun s a => ⟨decode_fieldsWord rfl rfl rfl, ?_⟩
  rw [exec_tst, State.commit_eq, Block.commitOk_zero, isZeroLimbs_eq]

/-- Settles O26: each commits its operand to one register, and the immediate fits every register. -/
theorem movAndLiCommitTheirOperand : Obligations.MovAndLiCommitTheirOperand := by
  intro s d a imm
  refine ⟨decode_fieldsWord rfl rfl rfl, decode_immFieldsWord rfl rfl rfl, ?_, ?_, ?_⟩
  · rw [exec_mov, State.commit_one]
  · rw [exec_li, immValue_eq, State.commit_one]
  · rw [← immValue_eq, immValue_toNat]

end Sys2Proof.Machine
end

section
/-! SUPPORT. The carry and borrow chains against sum and difference modulo 2^B (42_add_sub.md R120 to R123). -/

namespace Sys2Proof.Machine

/-! ## Chains of limbs -/

/-- The carry chain adds the joined numbers and its carry in, and drops the carry out of the last limb. -/
theorem joinLimbs_addChain (w : Nat) (as bs : List Nat) (k : Nat) (len : as.length = bs.length) :
    joinLimbs w (addChain w as bs k) = (joinLimbs w as + joinLimbs w bs + k) % 2 ^ (w * as.length) := by
  induction as generalizing bs k with
  | nil => simp [addChain, joinLimbs, Nat.mod_one]
  | cons a as ih =>
    obtain _ | ⟨b, bs⟩ := bs
    · cases len
    · have sum : joinLimbs w (a :: as) + joinLimbs w (b :: bs) + k =
          a + b + k + 2 ^ w * (joinLimbs w as + joinLimbs w bs) := by simp only [joinLimbs]; ring
      have carry : (a + b + k + 2 ^ w * (joinLimbs w as + joinLimbs w bs)) / 2 ^ w =
          joinLimbs w as + joinLimbs w bs + (a + b + k) / 2 ^ w := by
        rw [Nat.add_mul_div_left _ _ (Nat.two_pow_pos w), Nat.add_comm]
      rw [addChain, joinLimbs, ih bs _ (Nat.succ.inj len), sum, List.length_cons, Nat.mul_succ, Nat.add_comm (w * _),
        Nat.pow_add, Nat.mod_mul, carry, Nat.add_mul_mod_self_left]

/-- One limb of the borrow chain: adding the subtrahend and the borrow in gives the minuend and the borrow out. -/
theorem borrowLimb_add (w a b k : Nat) (hb : b < 2 ^ w) (hk : k ≤ 1) :
    (borrowLimb w ((a : Int) - b - k)).1 + b + k = a + 2 ^ w * (borrowLimb w ((a : Int) - b - k)).2 ∧
      (borrowLimb w ((a : Int) - b - k)).2 ≤ 1 := by
  rw [borrowLimb, show (2 ^ w : Int) = (2 ^ w : Nat) by push_cast; rfl]
  generalize 2 ^ w = p at hb
  split <;> dsimp only <;> omega

theorem subChain_length (w : Nat) (as bs : List Nat) (k : Nat) (len : as.length = bs.length) :
    (subChain w as bs k).length = as.length := by
  induction as generalizing bs k with
  | nil => rfl
  | cons a as ih =>
    obtain _ | ⟨b, bs⟩ := bs
    · cases len
    · rw [subChain, List.length_cons, ih bs _ (Nat.succ.inj len), List.length_cons]

/-- The carry chain undoes the borrow chain limb by limb, the borrows being its carries. -/
theorem addChain_subChain (w : Nat) (as bs : List Nat) (k : Nat) (len : as.length = bs.length)
    (ha : ∀ a ∈ as, a < 2 ^ w) (hb : ∀ b ∈ bs, b < 2 ^ w) (hk : k ≤ 1) :
    addChain w (subChain w as bs k) bs k = as := by
  induction as generalizing bs k with
  | nil => rfl
  | cons a as ih =>
    obtain _ | ⟨b, bs⟩ := bs
    · cases len
    · obtain ⟨ha, has⟩ := List.forall_mem_cons.mp ha
      obtain ⟨hb, hbs⟩ := List.forall_mem_cons.mp hb
      obtain ⟨limb, borrow⟩ := borrowLimb_add w a b k hb hk
      rw [subChain, addChain, limb, Nat.add_mul_mod_self_left, Nat.mod_eq_of_lt ha,
        Nat.add_mul_div_left _ _ (Nat.two_pow_pos w), Nat.div_eq_of_lt ha, Nat.zero_add,
        ih bs _ (Nat.succ.inj len) has hbs borrow]

/-- INC's chain is ADD's with a second operand of zeros. -/
theorem incChain_eq (w : Nat) (as : List Nat) (k : Nat) :
    incChain w as k = addChain w as (List.replicate as.length 0) k := by
  induction as generalizing k with
  | nil => rfl
  | cons a as ih => rw [incChain, ih, List.length_cons, List.replicate_succ, addChain, Nat.add_zero]

/-- DEC's chain is SUB's with a subtrahend of zeros. -/
theorem decChain_eq (w : Nat) (as : List Nat) (k : Nat) :
    decChain w as k = subChain w as (List.replicate as.length 0) k := by
  induction as generalizing k with
  | nil => rfl
  | cons a as ih =>
    rw [decChain, ih, List.length_cons, List.replicate_succ, subChain, Nat.cast_zero, Int.sub_zero]

/-! ## The units on values -/

/-- The value of a carry chain over N limbs is the sum modulo 2^B. -/
theorem ofLimbs_addChain {c : Config} (as bs : List Nat) (k : Nat) (lenA : as.length = c.N) (lenB : bs.length = c.N) :
    (ofLimbs (addChain c.W as bs k) : c.Value) = ofLimbs as + ofLimbs bs + BitVec.ofNat c.B k := by
  apply BitVec.eq_of_toNat_eq
  rw [ofLimbs_toNat, joinLimbs_addChain _ _ _ _ (lenA.trans lenB.symm), lenA, ← c.B_eq]
  simp [ofLimbs_toNat]

/-- The value of a borrow chain over the limbs of `a` is what the subtrahend and the borrow in complete to `a`. -/
theorem ofLimbs_subChain {c : Config} (a : c.Value) (bs : List Nat) (k : Nat) (len : bs.length = c.N)
    (hb : ∀ b ∈ bs, b < 2 ^ c.W) (hk : k ≤ 1) :
    (ofLimbs (subChain c.W (limbs a) bs k) : c.Value) + ofLimbs bs + BitVec.ofNat c.B k = a := by
  have lens : (limbs a).length = bs.length := (limbs_length a).trans len.symm
  have length : (subChain c.W (limbs a) bs k).length = c.N := (subChain_length _ _ _ _ lens).trans (limbs_length a)
  rw [← ofLimbs_addChain _ _ _ length len, addChain_subChain _ _ _ _ lens (limbs_lt a) hb hk, ofLimbs_limbs]

theorem ofLimbs_replicate_zero {c : Config} (n : Nat) : (ofLimbs (List.replicate n 0) : c.Value) = 0#c.B := by
  rw [ofLimbs, (joinLimbs_eq_zero _ _).mpr fun _ => List.eq_of_mem_replicate]

/-- ADD's unit is addition modulo 2^B. -/
theorem addLimbs_eq {c : Config} (a b : c.Value) : addLimbs a b = a + b := by
  rw [addLimbs, ofLimbs_addChain _ _ _ (limbs_length a) (limbs_length b), ofLimbs_limbs, ofLimbs_limbs,
    BitVec.add_zero]

/-- SUB's unit is subtraction modulo 2^B. -/
theorem subLimbs_eq {c : Config} (a b : c.Value) : subLimbs a b = a - b := by
  have completes := ofLimbs_subChain a (limbs b) 0 (limbs_length b) (limbs_lt b) (by decide)
  rw [ofLimbs_limbs, BitVec.add_zero] at completes
  exact eq_sub_of_add_eq completes

/-- INC's unit adds 1 modulo 2^B. -/
theorem incLimbs_eq {c : Config} (a : c.Value) : incLimbs a = a + 1#c.B := by
  rw [incLimbs, incChain_eq, limbs_length, ofLimbs_addChain _ _ _ (limbs_length a) List.length_replicate,
    ofLimbs_limbs, ofLimbs_replicate_zero, BitVec.add_zero]

/-- DEC's unit subtracts 1 modulo 2^B. -/
theorem decLimbs_eq {c : Config} (a : c.Value) : decLimbs a = a - 1#c.B := by
  have zeros : ∀ l ∈ List.replicate c.N 0, l < 2 ^ c.W := fun l mem =>
    List.eq_of_mem_replicate mem ▸ Nat.two_pow_pos c.W
  have completes := ofLimbs_subChain a (List.replicate c.N 0) 1 List.length_replicate zeros (by decide)
  rw [ofLimbs_replicate_zero, BitVec.add_zero] at completes
  rw [decLimbs, decChain_eq, limbs_length]
  exact eq_sub_of_add_eq completes

/-! ## Carries and borrows between the limbs -/

/-- The carry into limb `j` of `a + b`: what the limbs below it sum to beyond `2^(W*j)` (42_add_sub.md R120). -/
def carryInto {c : Config} (a b : c.Value) (j : Nat) : Nat :=
  (a.toNat % 2 ^ (c.W * j) + b.toNat % 2 ^ (c.W * j)) / 2 ^ (c.W * j)

theorem carryInto_zero {c : Config} (a b : c.Value) : carryInto a b 0 = 0 := by
  simp [carryInto, Nat.mod_one]

theorem carryInto_le_one {c : Config} (a b : c.Value) (j : Nat) : carryInto a b j ≤ 1 := by
  have lowA : a.toNat % 2 ^ (c.W * j) < 2 ^ (c.W * j) := Nat.mod_lt _ (Nat.two_pow_pos _)
  have lowB : b.toNat % 2 ^ (c.W * j) < 2 ^ (c.W * j) := Nat.mod_lt _ (Nat.two_pow_pos _)
  exact Nat.le_of_lt_succ ((Nat.div_lt_iff_lt_mul (Nat.two_pow_pos _)).mpr (by omega))

/-- Up to limb `N`, the limbs below `j` sum to the sum's limbs below `j` and the carry into limb `j`. -/
theorem add_mod_add_carryInto {c : Config} (a b : c.Value) (j : Nat) (h : j ≤ c.N) :
    (a + b).toNat % 2 ^ (c.W * j) + 2 ^ (c.W * j) * carryInto a b j =
      a.toNat % 2 ^ (c.W * j) + b.toNat % 2 ^ (c.W * j) := by
  have divides : 2 ^ (c.W * j) ∣ 2 ^ c.B := pow_dvd_pow 2 (Nat.mul_le_mul_left c.W h)
  rw [BitVec.toNat_add, Nat.mod_mod_of_dvd _ divides, Nat.add_mod, carryInto, Nat.mod_add_div]

/-- The carry recurrence of R120 at limb `j` of the sum. -/
theorem limb_add_carry {c : Config} (a b : c.Value) (j : Nat) (h : j < c.N) :
    limb (a + b) j + 2 ^ c.W * carryInto a b (j + 1) = limb a j + limb b j + carryInto a b j := by
  have below := add_mod_add_carryInto a b j h.le
  have through := add_mod_add_carryInto a b (j + 1) h
  rw [mod_succ_limb, mod_succ_limb, mod_succ_limb, Nat.mul_succ, Nat.pow_add] at through
  refine Nat.eq_of_mul_eq_mul_left (Nat.two_pow_pos (c.W * j)) ?_
  linarith

end Sys2Proof.Machine
end

section
/-! SUPPORT. The statements of 42_add_sub.md: the words and the results of ADD, SUB, INC and DEC, the chains between
their limbs, and their laws (R120 to R124). -/

namespace Sys2Proof.Machine

theorem exec_add (s : State) (d a b : Reg) :
    exec (.add d a b) s = s.commit [(d, addLimbs (s.operand a) (s.operand b))] .none := rfl

theorem exec_sub (s : State) (d a b : Reg) :
    exec (.sub d a b) s = s.commit [(d, subLimbs (s.operand a) (s.operand b))] .none := rfl

theorem exec_inc (s : State) (d : Reg) : exec (.inc d) s = s.commit [(d, incLimbs (s.operand d))] .none := rfl

theorem exec_dec (s : State) (d : Reg) : exec (.dec d) s = s.commit [(d, decLimbs (s.operand d))] .none := rfl

/-- Settles O9: the carry chain over the limbs is the sum modulo 2^B. -/
theorem addCommitsTheSum : Obligations.AddCommitsTheSum := by
  refine fun s d a b => ⟨decode_fieldsWord rfl rfl rfl, ?_⟩
  rw [exec_add, addLimbs_eq, State.commit_one]

/-- Settles O10: the borrow chain over the limbs is the difference modulo 2^B. -/
theorem subCommitsTheDifference : Obligations.SubCommitsTheDifference := by
  refine fun s d a b => ⟨decode_fieldsWord rfl rfl rfl, ?_⟩
  rw [exec_sub, subLimbs_eq, State.commit_one]

/-- Settles O11: the chains with a first carry or borrow of 1 are plus and minus 1 modulo 2^B. -/
theorem incAndDecCommitPlusAndMinusOne : Obligations.IncAndDecCommitPlusAndMinusOne := by
  refine fun s d => ⟨decode_fieldsWord rfl rfl rfl, decode_fieldsWord rfl rfl rfl, ?_, ?_⟩
  · rw [exec_inc, incLimbs_eq, State.commit_one]
  · rw [exec_dec, decLimbs_eq, State.commit_one]

/-- Settles O27: the carries are those between the sum's limbs, and the borrows of `a - b` are the carries of
`(a - b) + b`. -/
theorem carryAndBorrowRunThroughTheLimbs : Obligations.CarryAndBorrowRunThroughTheLimbs := by
  intro c a b
  rw [addLimbs_eq, subLimbs_eq]
  refine ⟨⟨carryInto a b, carryInto_zero a b, fun j h => ⟨carryInto_le_one a b _, limb_add_carry a b j h⟩⟩,
    carryInto (a - b) b, carryInto_zero _ b, fun j h => ⟨carryInto_le_one _ b _, ?_⟩⟩
  have recurrence := limb_add_carry (a - b) b j h
  rw [sub_add_cancel] at recurrence
  exact recurrence.symm

/-- Settles O28: each unit is an operation of the ring of B-bit values, which the limb width has no part in. -/
theorem carryChainLaws : Obligations.CarryChainLaws := by
  refine ⟨fun c a b => ?_, fun c c' a b a' b' width sameA sameB => ?_⟩
  · simp only [addLimbs_eq, subLimbs_eq, incLimbs_eq, decLimbs_eq, and_true]
    exact ⟨add_sub_cancel_right a b, add_comm a b, add_sub_cancel_right a _, sub_add_cancel a _⟩
  · simp only [addLimbs_eq, subLimbs_eq, incLimbs_eq, decLimbs_eq, BitVec.toNat_add, BitVec.toNat_sub,
      BitVec.toNat_ofNat, width, sameA, sameB, and_self]

end Sys2Proof.Machine
end

section
/-! SUPPORT. The schoolbook multiplier against the product of the naturals (43_mul.md R140). -/

namespace Sys2Proof.Machine

/-- Both factors are below `2^B`, so the exact product fits the 2B bits of the accumulator. -/
theorem product_lt {c : Config} (a b : c.Value) : a.toNat * b.toNat < 2 ^ (2 * c.B) := by
  rw [Nat.two_mul, Nat.pow_add]
  exact Nat.mul_lt_mul'' a.isLt b.isLt

/-- One limb product adds the product of the two limbs, each in its place. -/
theorem addProduct_eq {c : Config} (a b : c.Value) (i : Nat) (acc : BitVec (2 * c.B)) (j : Nat) :
    addProduct a b i acc j =
      acc + BitVec.ofNat _ (2 ^ (c.W * i) * limb a i * (2 ^ (c.W * j) * limb b j)) := by
  rw [addProduct, Nat.shiftLeft_eq, Nat.mul_comm (_ * _), Nat.mul_add, Nat.pow_add, Nat.mul_mul_mul_comm]

/-- The limb products of limb `i` with the limbs of `b` below `n` add up to one product. -/
theorem foldl_addProduct {c : Config} (a b : c.Value) (i n : Nat) (acc : BitVec (2 * c.B)) :
    (List.range n).foldl (addProduct a b i) acc =
      acc + BitVec.ofNat _ (2 ^ (c.W * i) * limb a i * (b.toNat % 2 ^ (c.W * n))) := by
  induction n with
  | zero => simp [Nat.mod_one]
  | succ n ih =>
    rw [List.range_succ, List.foldl_concat, ih, addProduct_eq, add_assoc, ← BitVec.ofNat_add, ← Nat.mul_add,
      ← mod_succ_limb]

/-- Over all N limbs of `b`, the inner loop of R140 adds limb `i` of `a`, in its place, times `b`. -/
theorem foldl_addProduct_limbIndices {c : Config} (a b : c.Value) (i : Nat) (acc : BitVec (2 * c.B)) :
    (limbIndices c).foldl (addProduct a b i) acc =
      acc + BitVec.ofNat _ (2 ^ (c.W * i) * limb a i * b.toNat) := by
  rw [limbIndices, foldl_addProduct, ← c.B_eq, Nat.mod_eq_of_lt b.isLt]

/-- The rows of the limbs of `a` below `n` add up to the part of `a` below limb `n` times `b`. -/
theorem foldl_rows {c : Config} (a b : c.Value) (n : Nat) :
    (List.range n).foldl (fun acc i => (limbIndices c).foldl (addProduct a b i) acc) 0 =
      BitVec.ofNat (2 * c.B) (a.toNat % 2 ^ (c.W * n) * b.toNat) := by
  induction n with
  | zero => simp [Nat.mod_one]
  | succ n ih =>
    rw [List.range_succ, List.foldl_concat, ih, foldl_addProduct_limbIndices, ← BitVec.ofNat_add, ← Nat.add_mul,
      ← mod_succ_limb]

theorem mulAccumulator_eq {c : Config} (a b : c.Value) :
    mulAccumulator a b = BitVec.ofNat (2 * c.B) (a.toNat * b.toNat) := by
  have rows : mulAccumulator a b = _ := foldl_rows a b c.N
  rwa [← c.B_eq, Nat.mod_eq_of_lt a.isLt] at rows

theorem mulAccumulator_toNat {c : Config} (a b : c.Value) : (mulAccumulator a b).toNat = a.toNat * b.toNat := by
  rw [mulAccumulator_eq, BitVec.toNat_ofNat, Nat.mod_eq_of_lt (product_lt a b)]

/-- MUL's unit is multiplication modulo 2^B. -/
theorem mulLimbs_eq {c : Config} (a b : c.Value) : mulLimbs a b = a * b := by
  apply BitVec.eq_of_toNat_eq
  rw [mulLimbs, BitVec.toNat_setWidth, mulAccumulator_toNat, BitVec.toNat_mul]

end Sys2Proof.Machine
end

section
/-! SUPPORT. The statements of 43_mul.md: the word and the result of MUL, and its laws (R140, R141). -/

namespace Sys2Proof.Machine

theorem exec_mul (s : State) (d a b : Reg) :
    exec (.mul d a b) s = s.commit [(d, mulLimbs (s.operand a) (s.operand b))] .none := rfl

/-- Settles O12: the limb products add up to the exact product, which the accumulator holds in full. -/
theorem mulCommitsTheLowHalfOfTheProduct : Obligations.MulCommitsTheLowHalfOfTheProduct := by
  refine ⟨fun c a b => mulAccumulator_toNat a b, fun s d a b => ⟨decode_fieldsWord rfl rfl rfl, ?_⟩⟩
  rw [exec_mul, mulLimbs_eq, State.commit_one]

/-- Settles O29: multiplier and adder are the operations of the ring of B-bit values. -/
theorem multiplierLaws : Obligations.MultiplierLaws := by
  intro c a b d
  simp only [mulLimbs_eq, addLimbs_eq]
  exact ⟨mul_comm a b, mul_assoc a b d, mul_add a b d⟩

end Sys2Proof.Machine
end

section
/-! SUPPORT. The bit-serial division engine against floor division of the naturals (44_divide.md R150). -/

namespace Sys2Proof.Machine

/-! ## One iteration -/

/-- A running remainder below a divisor of `n` bits is doubled without loss in its `n + 1` bits (90_conflicts.md C3). -/
theorem bringIn_toNat {n : Nat} (a : BitVec n) (i : Nat) {rem : BitVec (n + 1)} (fits : rem.toNat < 2 ^ n) :
    (bringIn a i rem).toNat = 2 * rem.toNat + (a.getLsbD i).toNat := by
  have doubled : (rem <<< 1).toNat = 2 ^ 1 * rem.toNat := by
    rw [BitVec.toNat_shiftLeft, Nat.shiftLeft_eq, Nat.mod_eq_of_lt (by omega), Nat.mul_comm]
  rw [bringIn, BitVec.toNat_or, doubled, BitVec.toNat_setWidth_of_le (by omega), BitVec.toNat_ofBool,
    ← Nat.two_pow_add_eq_or_of_lt (Bool.toNat_lt _), Nat.pow_one]

/-- A quotient with no bit below `i + 1` takes bit `i` by addition. -/
theorem or_twoPow_toNat {n i : Nat} {q : BitVec n} (bit : i < n) (low : 2 ^ (i + 1) ∣ q.toNat) :
    (q ||| BitVec.twoPow n i).toNat = q.toNat + 2 ^ i := by
  obtain ⟨k, high⟩ := low
  rw [BitVec.toNat_or, BitVec.toNat_twoPow_of_lt bit, high,
    Nat.two_pow_add_eq_or_of_lt (Nat.pow_lt_pow_right Nat.one_lt_two i.lt_succ_self)]

theorem divIteration_of_lt {n : Nat} {a b : BitVec n} {i : Nat} {st : DivState n}
    (less : (bringIn a i st.2).toNat < b.toNat) : divIteration a b i st = (st.1, bringIn a i st.2) := by
  rw [divIteration, if_neg]
  rwa [BitVec.le_def, BitVec.toNat_setWidth_of_le n.le_succ, Nat.not_le]

theorem divIteration_of_le {n : Nat} {a b : BitVec n} {i : Nat} {st : DivState n}
    (reached : b.toNat ≤ (bringIn a i st.2).toNat) : divIteration a b i st =
      (st.1 ||| BitVec.twoPow n i, bringIn a i st.2 - b.setWidth (n + 1)) := by
  rw [divIteration, if_pos]
  rwa [BitVec.le_def, BitVec.toNat_setWidth_of_le n.le_succ]

theorem sub_setWidth_toNat {n : Nat} {t : BitVec (n + 1)} {b : BitVec n} (reached : b.toNat ≤ t.toNat) :
    (t - b.setWidth (n + 1)).toNat = t.toNat - b.toNat := by
  have wide : (b.setWidth (n + 1)).toNat = b.toNat := BitVec.toNat_setWidth_of_le n.le_succ
  rw [BitVec.toNat_sub_of_le (by rwa [BitVec.le_def, wide]), wide]

/-- The shifted remainder is below twice the divisor, so one subtraction brings it below the divisor again. -/
theorem divIteration_rem_lt {n : Nat} (a b : BitVec n) (i : Nat) {st : DivState n} (below : st.2.toNat < b.toNat) :
    (divIteration a b i st).2.toNat < b.toNat := by
  have shifted := bringIn_toNat a i (below.trans b.isLt)
  have bit := Bool.toNat_lt (a.getLsbD i)
  obtain less | reached := Nat.lt_or_ge (bringIn a i st.2).toNat b.toNat
  · rwa [divIteration_of_lt less]
  · rw [divIteration_of_le reached, sub_setWidth_toNat reached]
    omega

/-! ## The loop -/

/-- What holds when the bits of the dividend from `i` up have been brought in: the quotient so far accounts for all of
the dividend but the running remainder, in its place, and the bits still to come. -/
structure DivInvariant {n : Nat} (a b : BitVec n) (i : Nat) (st : DivState n) : Prop where
  splits : st.1.toNat * b.toNat + st.2.toNat * 2 ^ i + a.toNat % 2 ^ i = a.toNat
  below : st.2.toNat < b.toNat
  low : 2 ^ i ∣ st.1.toNat

theorem divInvariant_start {n : Nat} (a : BitVec n) {b : BitVec n} (pos : 0 < b.toNat) :
    DivInvariant a b n (0, 0) where
  splits := by simp [Nat.mod_eq_of_lt a.isLt]
  below := by simpa using pos
  low := by simp

theorem DivInvariant.iteration {n : Nat} {a b : BitVec n} {i : Nat} {st : DivState n}
    (h : DivInvariant a b (i + 1) st) (bit : i < n) : DivInvariant a b i (divIteration a b i st) := by
  obtain ⟨splits, below, low⟩ := h
  have shifted := bringIn_toNat a i (below.trans b.isLt)
  have kept := divIteration_rem_lt a b i below
  have lower : 2 ^ i ∣ st.1.toNat := (pow_dvd_pow 2 i.le_succ).trans low
  have brought : st.1.toNat * b.toNat + (bringIn a i st.2).toNat * 2 ^ i + a.toNat % 2 ^ i = a.toNat := by
    rw [Nat.pow_succ, Nat.mod_mul, ← Nat.toNat_testBit, BitVec.testBit_toNat] at splits
    rw [shifted]
    exact .trans (by ring) splits
  obtain less | reached := Nat.lt_or_ge (bringIn a i st.2).toNat b.toNat
  · rw [divIteration_of_lt less] at kept ⊢
    exact ⟨brought, kept, lower⟩
  · rw [divIteration_of_le reached] at kept ⊢
    refine ⟨?_, kept, ?_⟩
    · obtain ⟨u, excess⟩ := Nat.exists_eq_add_of_le reached
      rw [excess] at brought
      rw [or_twoPow_toNat bit low, sub_setWidth_toNat reached, excess, Nat.add_sub_cancel_left]
      exact .trans (by ring) brought
    · rw [or_twoPow_toNat bit low]
      exact Nat.dvd_add lower dvd_rfl

theorem DivInvariant.loop {n : Nat} {a b : BitVec n} {i : Nat} {st : DivState n} (h : DivInvariant a b i st)
    (bits : i ≤ n) : DivInvariant a b 0 (divLoop a b i st) := by
  induction i generalizing st with
  | zero => exact h
  | succ i ih => exact ih (h.iteration bits) (Nat.le_of_succ_le bits)

/-! ## The engine -/

/-- At the end no bit is left, and quotient and remainder are the ones that floor division has. -/
theorem longDiv_toNat {n : Nat} (a : BitVec n) {b : BitVec n} (nonzero : b ≠ 0) :
    (longDiv a b).1.toNat = a.toNat / b.toNat ∧ (longDiv a b).2.toNat = a.toNat % b.toNat := by
  have pos := BitVec.toNat_pos_of_ne_zero nonzero
  obtain ⟨splits, below, _⟩ := (divInvariant_start a pos).loop le_rfl
  have narrow : (longDiv a b).2.toNat = (divLoop a b n (0, 0)).2.toNat :=
    (BitVec.toNat_setWidth _ _).trans (Nat.mod_eq_of_lt (below.trans b.isLt))
  rw [Nat.pow_zero, Nat.mod_one, Nat.mul_one, Nat.add_zero, Nat.add_comm, Nat.mul_comm] at splits
  obtain ⟨quotient, remainder⟩ := (Nat.div_mod_unique pos).mpr ⟨splits, below⟩
  exact ⟨quotient.symm, narrow.trans remainder.symm⟩

/-- The engine is floor division of B-bit values. -/
theorem longDiv_eq {n : Nat} (a : BitVec n) {b : BitVec n} (nonzero : b ≠ 0) : longDiv a b = (a / b, a % b) := by
  obtain ⟨quotient, remainder⟩ := longDiv_toNat a nonzero
  exact Prod.ext (BitVec.eq_of_toNat_eq (quotient.trans BitVec.toNat_udiv.symm))
    (BitVec.eq_of_toNat_eq (remainder.trans BitVec.toNat_umod.symm))

end Sys2Proof.Machine
end

section
/-! SUPPORT. The statements of 44_divide.md: the engine and its laws, the words and the results of DIV, MOD and DIVMOD
(R150 to R154). -/

namespace Sys2Proof.Machine

/-- An error at the commit of a latched word: the record gets that word (60_exceptions.md R225). -/
theorem State.raise_of_latched (s : State) (code : ErrCode) (l : Latch s.cfg) (cur : s.blk.cur = some l) :
    s.raise code = .next (s.withBlk (s.blk.afterError code l.word)) := by
  rw [State.raise_eq, s.blk.curWord_of_latched l cur]

/-- The commit of a command that writes two registers and no flag, the second after the first (20_memory.md R59). -/
theorem State.commit_two (s : State) (q r : Reg) (v v' : s.cfg.Value) :
    s.commit [(q, v), (r, v')] .none =
      .next (s.withBlk (s.blk.afterCommit ((s.blk.x.set q.val v).set r.val v'))) := rfl

/-- A word with the fixed bits of a row that is refused is refused for DIVMOD's own check (30_encoding.md R74). -/
theorem decode_encode_of_not_wf {i : Instr} (refused : i.wf = false) :
    decode (encode i) = .error .divmodSameDestinations := by
  have fixed : decodeAs i.format i.opcode (encode i) i = .ok i := if_pos (row_matches_encode i)
  rw [decode_of_opcode i _ (opField_encode i), withFields_encode, fixed]
  simp [Except.bind, refuseSameDestinations, refused]

theorem decode_divmod_same (q a b : Reg) : decode (fieldsWord 0x08 q a b q) = .error .divmodSameDestinations := by
  have word : fieldsWord 0x08 q a b q = encode (.divmod q q a b) := fieldsWord_eq_packRegs 0x08#8 q a b q
  rw [word, decode_encode_of_not_wf (by simp [Instr.wf])]

/-! ## What the commands do -/

theorem exec_div_zero (s : State) (d a b : Reg) (zero : s.operand b = 0) : exec (.div d a b) s = s.raise .divz :=
  if_pos zero

theorem exec_div (s : State) (d a b : Reg) (nonzero : s.operand b ≠ 0) :
    exec (.div d a b) s = s.commit [(d, s.operand a / s.operand b)] .none := by
  rw [exec, execDiv, if_neg nonzero, longDiv_eq _ nonzero]

theorem exec_mod_zero (s : State) (d a b : Reg) (zero : s.operand b = 0) : exec (.mod d a b) s = s.raise .divz :=
  if_pos zero

theorem exec_mod (s : State) (d a b : Reg) (nonzero : s.operand b ≠ 0) :
    exec (.mod d a b) s = s.commit [(d, s.operand a % s.operand b)] .none := by
  rw [exec, execMod, if_neg nonzero, longDiv_eq _ nonzero]

theorem exec_divmod_same (s : State) (q a b : Reg) : exec (.divmod q q a b) s = s.raise .illegal :=
  if_pos rfl

theorem exec_divmod_zero (s : State) (q r a b : Reg) (differ : q ≠ r) (zero : s.operand b = 0) :
    exec (.divmod q r a b) s = s.raise .divz := by
  rw [exec, execDivmod, if_neg differ, if_pos zero]

theorem exec_divmod (s : State) (q r a b : Reg) (differ : q ≠ r) (nonzero : s.operand b ≠ 0) :
    exec (.divmod q r a b) s =
      s.commit [(q, s.operand a / s.operand b), (r, s.operand a % s.operand b)] .none := by
  rw [exec, execDivmod, if_neg differ, if_neg nonzero, longDiv_eq _ nonzero]

/-! ## The statements -/

/-- Settles O13: the loop keeps `DivInvariant`, which at bit 0 determines quotient and remainder. -/
theorem longDivisionIsExact : Obligations.LongDivisionIsExact := by
  intro n a b nonzero
  obtain ⟨quotient, remainder⟩ := longDiv_toNat a nonzero
  exact ⟨quotient, remainder, fun i st below =>
    ⟨bringIn_toNat a i (below.trans b.isLt), divIteration_rem_lt a b i below⟩⟩

/-- Settles O14: with a nonzero divisor the engine is floor division, and a zero divisor is refused before it runs. -/
theorem divAndModCommitQuotientAndRemainder : Obligations.DivAndModCommitQuotientAndRemainder := by
  refine fun s d a b => ⟨decode_fieldsWord rfl rfl rfl, decode_fieldsWord rfl rfl rfl,
    fun nonzero => ⟨?_, ?_⟩, fun l cur zero => ⟨?_, ?_⟩⟩
  · rw [exec_div s d a b nonzero, State.commit_one]
  · rw [exec_mod s d a b nonzero, State.commit_one]
  · rw [exec_div_zero s d a b zero, s.raise_of_latched .divz l cur]
  · rw [exec_mod_zero s d a b zero, s.raise_of_latched .divz l cur]

/-- Settles O15: equal destinations are refused by the decoder, and by `exec` before the divisor is looked at. -/
theorem divmodCommitsBothResults : Obligations.DivmodCommitsBothResults := by
  intro s q r a b
  refine ⟨fun differ => decode_fieldsWord rfl rfl (by simp [Instr.wf, differ]), ?_,
    fun differ nonzero => ?_, fun l cur => ⟨?_, fun differ zero => ?_⟩⟩
  · rintro rfl
    exact decode_divmod_same q a b
  · rw [exec_divmod s q r a b differ nonzero, State.commit_two]
  · rintro rfl
    rw [exec_divmod_same, s.raise_of_latched .illegal l cur]
  · rw [exec_divmod_zero s q r a b differ zero, s.raise_of_latched .divz l cur]

/-- Settles O30: the laws of floor division on the naturals, which the engine computes. -/
theorem divisionLaws : Obligations.DivisionLaws := by
  intro c a b nonzero
  have pos := BitVec.toNat_pos_of_ne_zero nonzero
  obtain ⟨quotient, remainder⟩ := longDiv_toNat a nonzero
  refine ⟨?_, ?_, ?_⟩
  · rw [quotient, remainder, Nat.div_add_mod']
  · rw [remainder]
    exact Nat.mod_lt _ pos
  · rw [← BitVec.toNat_inj, quotient, BitVec.ofNat_eq_ofNat, BitVec.toNat_zero, Nat.div_eq_zero_iff_lt pos]

end Sys2Proof.Machine
end

section
/-! SUPPORT. The limbwise operations against the bitwise operations on whole values (45_bitwise.md R170 to R172). -/

namespace Sys2Proof.Machine

/-- The value whose every limb is `op` of the operands' limbs at that place is the limbwise result. -/
theorem limbwise_eq {c : Config} {op : Nat → Nat → Nat} {r a b : c.Value}
    (each : ∀ j, limb r j = op (limb a j) (limb b j)) : limbwise op a b = r := by
  have spelled : List.zipWith op (limbs a) (limbs b) = limbs r := by
    rw [limbs, limbs, limbs, List.zipWith_map, List.zipWith_self]
    exact List.map_congr_left fun j _ => (each j).symm
  rw [limbwise, spelled, ofLimbs_limbs]

theorem limb_and {c : Config} (a b : c.Value) (j : Nat) : limb (a &&& b) j = limb a j &&& limb b j := by
  rw [limb, BitVec.extractLsb'_and, BitVec.toNat_and, limb, limb]

theorem limb_or {c : Config} (a b : c.Value) (j : Nat) : limb (a ||| b) j = limb a j ||| limb b j := by
  rw [limb, BitVec.extractLsb'_or, BitVec.toNat_or, limb, limb]

theorem limb_xor {c : Config} (a b : c.Value) (j : Nat) : limb (a ^^^ b) j = limb a j ^^^ limb b j := by
  rw [limb, BitVec.extractLsb'_xor, BitVec.toNat_xor, limb, limb]

end Sys2Proof.Machine
end

section
/-! SUPPORT. The statement of 45_bitwise.md: the words and the results of AND, OR and XOR (R170 to R172). -/

namespace Sys2Proof.Machine

theorem exec_and (s : State) (d a b : Reg) :
    exec (.and d a b) s = s.commit [(d, limbwise (· &&& ·) (s.operand a) (s.operand b))] .none := rfl

theorem exec_or (s : State) (d a b : Reg) :
    exec (.or d a b) s = s.commit [(d, limbwise (· ||| ·) (s.operand a) (s.operand b))] .none := rfl

theorem exec_xor (s : State) (d a b : Reg) :
    exec (.xor d a b) s = s.commit [(d, limbwise (· ^^^ ·) (s.operand a) (s.operand b))] .none := rfl

/-- Settles O17: a limb of the bitwise result is the operation on the operands' limbs, so the N limbs spell it whole. -/
theorem bitwiseCommandsCommitEveryBit : Obligations.BitwiseCommandsCommitEveryBit := by
  refine fun s d a b => ⟨decode_fieldsWord rfl rfl rfl, decode_fieldsWord rfl rfl rfl,
    decode_fieldsWord rfl rfl rfl, ?_, ?_, ?_⟩
  · rw [exec_and, limbwise_eq (limb_and _ _), State.commit_one]
  · rw [exec_or, limbwise_eq (limb_or _ _), State.commit_one]
  · rw [exec_xor, limbwise_eq (limb_xor _ _), State.commit_one]

end Sys2Proof.Machine
end

section
/-! SUPPORT. The two-stage barrel shifter, whole limbs and then bits, against shifts of whole values
(46_shift.md R180). -/

namespace Sys2Proof.Machine

/-! ## The bits of a limb -/

/-- Numbers of `w` bits are equal when those bits are. -/
theorem eq_of_low_bits {w x y : Nat} (hx : x < 2 ^ w) (hy : y < 2 ^ w)
    (bits : ∀ i < w, x.testBit i = y.testBit i) : x = y := by
  refine Nat.eq_of_testBit_eq fun i => ?_
  obtain low | high := Nat.lt_or_ge i w
  · exact bits i low
  · have bound : 2 ^ w ≤ 2 ^ i := Nat.pow_le_pow_right Nat.two_pos high
    rw [Nat.testBit_lt_two_pow (hx.trans_le bound), Nat.testBit_lt_two_pow (hy.trans_le bound)]

theorem limb_testBit {c : Config} (v : c.Value) (j i : Nat) :
    (limb v j).testBit i = (decide (i < c.W) && v.getLsbD (c.W * j + i)) := by
  rw [limb, BitVec.testBit_toNat, BitVec.getLsbD_extractLsb']

theorem limb_bit_lt {c : Config} {i j : Nat} (hi : i < c.W) (hj : j < c.N) : c.W * j + i < c.B :=
  calc c.W * j + i < c.W * (j + 1) := by rw [Nat.mul_succ]; omega
    _ ≤ c.B := Nat.mul_le_mul_left _ hj

theorem limb_shiftLeft_testBit {c : Config} (v : c.Value) (m : Nat) {i j : Nat} (hi : i < c.W) (hj : j < c.N) :
    (limb (v <<< m) j).testBit i = (decide (m ≤ c.W * j + i) && v.getLsbD (c.W * j + i - m)) := by
  rw [limb_testBit, BitVec.getLsbD_shiftLeft, decide_eq_true hi, decide_eq_true (limb_bit_lt hi hj), Bool.true_and,
    Bool.true_and, ← decide_not, decide_eq_decide.mpr Nat.not_lt]

theorem limb_shiftRight_testBit {c : Config} (v : c.Value) (m : Nat) {i j : Nat} (hi : i < c.W) :
    (limb (v >>> m) j).testBit i = v.getLsbD (m + (c.W * j + i)) := by
  rw [limb_testBit, BitVec.getLsbD_ushiftRight, decide_eq_true hi, Bool.true_and]

/-! ## Whole limbs -/

/-- The limb `wo` places below is the limb of the value shifted left by `wo` limbs. -/
theorem limbBelow_eq {c : Config} (v : c.Value) {j : Nat} (wo : Nat) (hj : j < c.N) :
    limbBelow v j wo = limb (v <<< (c.W * wo)) j := by
  unfold limbBelow
  split
  case isTrue within =>
    obtain ⟨l, rfl⟩ := Nat.exists_eq_add_of_le within
    refine eq_of_low_bits (limb_lt _ _) (limb_lt _ _) fun i hi => ?_
    rw [limb_shiftLeft_testBit v _ hi hj, limb_testBit, Nat.mul_add, Nat.add_assoc]
    simp [hi]
  case isFalse beyond =>
    have below : c.W * (j + 1) ≤ c.W * wo := Nat.mul_le_mul_left _ (Nat.lt_of_not_le beyond)
    rw [Nat.mul_succ] at below
    refine eq_of_low_bits (Nat.two_pow_pos _) (limb_lt _ _) fun i hi => ?_
    rw [limb_shiftLeft_testBit v _ hi hj, decide_eq_false (by omega), Nat.zero_testBit, Bool.false_and]

/-- The limb `wo` places above is the limb of the value shifted right by `wo` limbs. -/
theorem limbAbove_eq {c : Config} (v : c.Value) (j wo : Nat) : limbAbove v j wo = limb (v >>> (c.W * wo)) j := by
  have place (i : Nat) : c.W * wo + (c.W * j + i) = c.W * (j + wo) + i := by ring
  unfold limbAbove
  split
  case isTrue within =>
    refine eq_of_low_bits (limb_lt _ _) (limb_lt _ _) fun i hi => ?_
    rw [limb_shiftRight_testBit v _ hi, limb_testBit, decide_eq_true hi, Bool.true_and, place]
  case isFalse beyond =>
    have above : c.B ≤ c.W * (j + wo) := Nat.mul_le_mul_left _ (Nat.le_of_not_lt beyond)
    refine eq_of_low_bits (Nat.two_pow_pos _) (limb_lt _ _) fun i hi => ?_
    rw [limb_shiftRight_testBit v _ hi, Nat.zero_testBit, place, BitVec.getLsbD_of_ge _ _ (by omega)]

/-! ## Bits within two adjacent limbs -/

/-- A bit from `bo` up comes from the limb `wo` places below, a bit under it from the limb one further below. -/
theorem shiftLeftLimb_eq {c : Config} (v : c.Value) {bo j : Nat} (wo : Nat) (hb : bo < c.W) (hj : j < c.N) :
    shiftLeftLimb v wo bo j = limb (v <<< (c.W * wo + bo)) j := by
  refine eq_of_low_bits (Nat.mod_lt _ (Nat.two_pow_pos _)) (limb_lt _ _) fun i hi => ?_
  rw [limb_shiftLeft_testBit v _ hi hj, shiftLeftLimb, limbBelow_eq v _ hj, limbBelow_eq v _ hj,
    Nat.testBit_mod_two_pow, decide_eq_true hi, Bool.true_and, Nat.testBit_or, Nat.testBit_shiftLeft]
  obtain under | reached := Nat.lt_or_ge i bo
  · have lower : c.W - bo + i < c.W := by omega
    have place : c.W * j + (c.W - bo + i) - c.W * (wo + 1) = c.W * j + i - (c.W * wo + bo) := by
      rw [Nat.mul_succ]; omega
    have reach : c.W * (wo + 1) ≤ c.W * j + (c.W - bo + i) ↔ c.W * wo + bo ≤ c.W * j + i := by
      rw [Nat.mul_succ]; omega
    rw [decide_eq_false (Nat.not_le.mpr under), Bool.false_and, Bool.false_or, if_neg (by omega),
      Nat.testBit_shiftRight, limb_shiftLeft_testBit v _ lower hj, place, decide_eq_decide.mpr reach]
  · have upper : i - bo < c.W := by omega
    have place : c.W * j + (i - bo) - c.W * wo = c.W * j + i - (c.W * wo + bo) := by omega
    have reach : c.W * wo ≤ c.W * j + (i - bo) ↔ c.W * wo + bo ≤ c.W * j + i := by omega
    have nothing : (if bo = 0 then 0 else limb (v <<< (c.W * (wo + 1))) j >>> (c.W - bo)).testBit i = false := by
      split
      · exact Nat.zero_testBit i
      · rw [Nat.testBit_shiftRight, limb_testBit, decide_eq_false (by omega), Bool.false_and]
    rw [decide_eq_true reached, Bool.true_and, limb_shiftLeft_testBit v _ upper hj, place,
      decide_eq_decide.mpr reach, nothing, Bool.or_false]

/-- A bit that stays under `W` comes from the limb `wo` places above, a bit beyond from the limb one further above. -/
theorem shiftRightLimb_eq {c : Config} (v : c.Value) {bo : Nat} (wo j : Nat) (hb : bo < c.W) :
    shiftRightLimb v wo bo j = limb (v >>> (c.W * wo + bo)) j := by
  refine eq_of_low_bits (Nat.mod_lt _ (Nat.two_pow_pos _)) (limb_lt _ _) fun i hi => ?_
  rw [limb_shiftRight_testBit v _ hi, shiftRightLimb, limbAbove_eq, limbAbove_eq,
    Nat.testBit_mod_two_pow, decide_eq_true hi, Bool.true_and, Nat.testBit_or, Nat.testBit_shiftRight]
  obtain within | beyond := Nat.lt_or_ge (bo + i) c.W
  · have place : c.W * wo + (c.W * j + (bo + i)) = c.W * wo + bo + (c.W * j + i) := by omega
    have nothing : (if bo = 0 then 0 else limb (v >>> (c.W * (wo + 1))) j <<< (c.W - bo)).testBit i = false := by
      split
      · exact Nat.zero_testBit i
      · rw [Nat.testBit_shiftLeft, decide_eq_false (by omega), Bool.false_and]
    rw [limb_shiftRight_testBit v _ within, place, nothing, Bool.or_false]
  · have upper : i - (c.W - bo) < c.W := by omega
    have place : c.W * (wo + 1) + (c.W * j + (i - (c.W - bo))) = c.W * wo + bo + (c.W * j + i) := by
      rw [Nat.mul_succ]; omega
    rw [limb_testBit, decide_eq_false (by omega), Bool.false_and, Bool.false_or, if_neg (by omega),
      Nat.testBit_shiftLeft, decide_eq_true (by omega), Bool.true_and, limb_shiftRight_testBit v _ upper, place]

/-! ## The shifter -/

/-- The shifter's left shift is the left shift of the whole value, which is 0 from `B` up. -/
theorem shiftLeft_eq {c : Config} (v : c.Value) (k : Nat) : shiftLeft v k = v <<< k := by
  unfold shiftLeft
  split
  case isTrue large => exact (BitVec.shiftLeft_eq_zero large).symm
  case isFalse =>
    have spelled : (limbIndices c).map (shiftLeftLimb v (k / c.W) (k % c.W)) = limbs (v <<< k) := by
      refine List.map_congr_left fun j index => ?_
      rw [shiftLeftLimb_eq v _ (Nat.mod_lt _ c.W_pos) (List.mem_range.mp index), Nat.div_add_mod]
    rw [spelled, ofLimbs_limbs]

/-- The shifter's right shift is the logical right shift of the whole value, which is 0 from `B` up. -/
theorem shiftRight_eq {c : Config} (v : c.Value) (k : Nat) : shiftRight v k = v >>> k := by
  unfold shiftRight
  split
  case isTrue large => exact (BitVec.ushiftRight_eq_zero large).symm
  case isFalse =>
    have spelled : (limbIndices c).map (shiftRightLimb v (k / c.W) (k % c.W)) = limbs (v >>> k) := by
      refine List.map_congr_left fun j _ => ?_
      rw [shiftRightLimb_eq v _ j (Nat.mod_lt _ c.W_pos), Nat.div_add_mod]
    rw [spelled, ofLimbs_limbs]

/-! ## Laws of shifts -/

/-- A value with its top `k` bits clear loses nothing when it is shifted left by `k`. -/
theorem shiftLeft_shiftRight_of_lt {n k : Nat} {v : BitVec n} (fits : v.toNat < 2 ^ (n - k)) (le : k ≤ n) :
    v <<< k >>> k = v := by
  have kept : v.toNat * 2 ^ k < 2 ^ n :=
    calc v.toNat * 2 ^ k < 2 ^ (n - k) * 2 ^ k := Nat.mul_lt_mul_of_pos_right fits (Nat.two_pow_pos k)
      _ = 2 ^ n := by rw [← Nat.pow_add, Nat.sub_add_cancel le]
  apply BitVec.eq_of_toNat_eq
  rw [BitVec.toNat_ushiftRight, BitVec.toNat_shiftLeft, Nat.shiftLeft_eq, Nat.mod_eq_of_lt kept,
    Nat.shiftRight_eq_div_pow, Nat.mul_div_cancel _ (Nat.two_pow_pos k)]

theorem iterate_shiftLeft_one {n : Nat} (v : BitVec n) (k : Nat) : (fun u : BitVec n => u <<< 1)^[k] v = v <<< k := by
  induction k with
  | zero => exact (BitVec.shiftLeft_zero v).symm
  | succ k ih => rw [Function.iterate_succ_apply', ih, BitVec.shiftLeft_add]

theorem iterate_shiftRight_one {n : Nat} (v : BitVec n) (k : Nat) : (fun u : BitVec n => u >>> 1)^[k] v = v >>> k := by
  induction k with
  | zero => exact (BitVec.ushiftRight_zero v).symm
  | succ k ih => rw [Function.iterate_succ_apply', ih, BitVec.shiftRight_add]

theorem shiftLeft_eq_mul_two_pow {n : Nat} (v : BitVec n) (k : Nat) : v <<< k = v * BitVec.ofNat n (2 ^ k) := by
  apply BitVec.eq_of_toNat_eq
  rw [BitVec.toNat_shiftLeft, Nat.shiftLeft_eq, BitVec.toNat_mul, BitVec.toNat_ofNat, Nat.mul_mod_mod]

end Sys2Proof.Machine
end

section
/-! SUPPORT. The statements of 46_shift.md: the words and the results of LSH, RSH, LSHI and RSHI, and the shifter's laws
(R180 to R185). -/

namespace Sys2Proof.Machine

theorem exec_lsh (s : State) (d a k : Reg) :
    exec (.lsh d a k) s = s.commit [(d, s.operand a <<< (s.operand k).toNat)] .none := by
  rw [← shiftLeft_eq]; rfl

theorem exec_rsh (s : State) (d a k : Reg) :
    exec (.rsh d a k) s = s.commit [(d, s.operand a >>> (s.operand k).toNat)] .none := by
  rw [← shiftRight_eq]; rfl

theorem exec_lshi (s : State) (d a : Reg) (imm : BitVec 16) :
    exec (.lshi d a imm) s = s.commit [(d, s.operand a <<< imm.toNat)] .none := by
  rw [← shiftLeft_eq]; rfl

theorem exec_rshi (s : State) (d a : Reg) (imm : BitVec 16) :
    exec (.rshi d a imm) s = s.commit [(d, s.operand a >>> imm.toNat)] .none := by
  rw [← shiftRight_eq]; rfl

/-- Settles O18: the shifter takes the count as it is, and its two stages shift the whole value. -/
theorem registerShiftsCommitByTheWholeCount : Obligations.RegisterShiftsCommitByTheWholeCount := by
  refine fun s d a k => ⟨decode_fieldsWord rfl rfl rfl, decode_fieldsWord rfl rfl rfl, ?_, ?_⟩
  · rw [exec_lsh, State.commit_one]
  · rw [exec_rsh, State.commit_one]

/-- Settles O19: the same shifter, its count the immediate. -/
theorem immediateShiftsCommitByTheImmediate : Obligations.ImmediateShiftsCommitByTheImmediate := by
  refine fun s d a imm => ⟨decode_immFieldsWord rfl rfl rfl, decode_immFieldsWord rfl rfl rfl, ?_, ?_⟩
  · rw [exec_lshi, State.commit_one]
  · rw [exec_rshi, State.commit_one]

/-- Settles O31: each law is one of shifts of whole values, and both forms of a command give one shifter their count. -/
theorem shifterLaws : Obligations.ShifterLaws := by
  refine ⟨fun c v k => ?_, fun s d a k imm count => ⟨?_, ?_⟩⟩
  · simp only [shiftLeft_eq, shiftRight_eq, mulLimbs_eq]
    exact ⟨shiftLeft_shiftRight_of_lt, (iterate_shiftRight_one v k).symm, (iterate_shiftLeft_one v k).symm,
      fun _ => shiftLeft_eq_mul_two_pow v k⟩
  · rw [exec_lsh, exec_lshi, count]
  · rw [exec_rsh, exec_rshi, count]

end Sys2Proof.Machine
end

section
/-! SUPPORT. Square-and-multiply against powers (47_exp.md R200, R202, R204). -/

namespace Sys2Proof.Machine

/-! ## The exponent, bit by bit -/

/-- Bringing in bit `i` of the exponent squares the power reached so far, and multiplies by the base if the bit is 1. -/
theorem pow_div_two_pow {M : Type} [Monoid M] (x : M) (e i : Nat) :
    x ^ (e / 2 ^ i) =
      if e.testBit i then x ^ (e / 2 ^ (i + 1)) * x ^ (e / 2 ^ (i + 1)) * x
      else x ^ (e / 2 ^ (i + 1)) * x ^ (e / 2 ^ (i + 1)) := by
  have bits : e / 2 ^ i = 2 * (e / 2 ^ (i + 1)) + (e.testBit i).toNat := by
    rw [Nat.toNat_testBit, Nat.pow_succ, ← Nat.div_div_eq_div_mul, Nat.div_add_mod]
  rw [bits, pow_add, Nat.two_mul, pow_add]
  cases e.testBit i <;> simp

/-! ## The power engine -/

/-- When the exponent bits from `i` up have been scanned, the running result is the power by those bits. -/
theorem powLoop_eq {c : Config} (base e : c.Value) (i : Nat) :
    powLoop base e i (base ^ (e.toNat / 2 ^ i)) = base ^ e.toNat := by
  induction i with
  | zero => rw [powLoop, Nat.pow_zero, Nat.div_one]
  | succ i ih =>
    have iteration : powIteration base e i (base ^ (e.toNat / 2 ^ (i + 1))) = base ^ (e.toNat / 2 ^ i) := by
      simp only [powIteration, mulLimbs_eq, pow_div_two_pow base e.toNat i, BitVec.testBit_toNat]
    rw [powLoop, strictly_eq, iteration, ih]

/-- POW's engine is the power in the ring of B-bit values. -/
theorem powTrunc_eq {c : Config} (base e : c.Value) : powTrunc base e = base ^ e.toNat := by
  have start : base ^ (e.toNat / 2 ^ c.B) = 1 := by rw [Nat.div_eq_of_lt e.isLt, pow_zero]
  rw [powTrunc, ← start, powLoop_eq]

/-! ## The modular engine over the naturals -/

theorem powModNatStep_lt {m : Nat} (pos : 0 < m) (bits base e i r : Nat) : powModNatStep bits base e m i r < m := by
  unfold powModNatStep
  split <;> exact Nat.mod_lt _ pos

theorem powModNatLoop_lt {m : Nat} (pos : 0 < m) (bits base e i : Nat) {r : Nat} (below : r < m) :
    powModNatLoop bits base e m i r < m := by
  induction i generalizing r with
  | zero => exact below
  | succ i ih => exact ih (powModNatStep_lt pos bits base e i r)

theorem powModNat_lt {m : Nat} (pos : 0 < m) (bits base e : Nat) : powModNat bits base e m < m :=
  powModNatLoop_lt pos bits base e bits (Nat.mod_lt 1 pos)

/-- R204's condition: the product of two residues is at most `(m - 1)^2`, so truncation to `bits` bits changes nothing. -/
theorem mul_residues_mod_two_pow {bits m x y : Nat} (exactness : (m - 1) ^ 2 < 2 ^ bits) (hx : x < m) (hy : y < m) :
    x * y % 2 ^ bits = x * y := by
  refine Nat.mod_eq_of_lt (Nat.lt_of_le_of_lt ?_ exactness)
  rw [Nat.pow_two]
  exact Nat.mul_le_mul (Nat.le_sub_one_of_lt hx) (Nat.le_sub_one_of_lt hy)

/-- When nothing is truncated, an iteration takes the residue of the power by the exponent bits above `i` to that by the
bits from `i` up. -/
theorem powModNatStep_of_exact {bits m : Nat} (pos : 0 < m) (exactness : (m - 1) ^ 2 < 2 ^ bits) (base e i : Nat) :
    powModNatStep bits base e m i (base ^ (e / 2 ^ (i + 1)) % m) = base ^ (e / 2 ^ i) % m := by
  have whole (x y : Nat) : x % m * (y % m) % 2 ^ bits % m = x * y % m := by
    rw [mul_residues_mod_two_pow exactness (Nat.mod_lt x pos) (Nat.mod_lt y pos), ← Nat.mul_mod]
  rw [powModNatStep, whole (base ^ _), whole, pow_div_two_pow base e i, apply_ite (· % m)]

theorem powModNatLoop_of_exact {bits m : Nat} (pos : 0 < m) (exactness : (m - 1) ^ 2 < 2 ^ bits) (base e i : Nat) :
    powModNatLoop bits base e m i (base ^ (e / 2 ^ i) % m) = base ^ e % m := by
  induction i with
  | zero => rw [powModNatLoop, Nat.pow_zero, Nat.div_one]
  | succ i ih => rw [powModNatLoop, powModNatStep_of_exact pos exactness, ih]

theorem powModNat_of_exact {bits m e : Nat} (pos : 0 < m) (exactness : (m - 1) ^ 2 < 2 ^ bits) (base : Nat)
    (fits : e < 2 ^ bits) : powModNat bits base e m = base ^ e % m := by
  have start : base ^ (e / 2 ^ bits) = 1 := by rw [Nat.div_eq_of_lt fits, pow_zero]
  rw [powModNat, ← start, powModNatLoop_of_exact pos exactness]

/-! ## The modular engine -/

theorem mulMod_toNat {c : Config} (a b : c.Value) {m : c.Value} (nonzero : m ≠ 0) :
    (mulMod a b m).toNat = a.toNat * b.toNat % 2 ^ c.B % m.toNat := by
  rw [mulMod, strictly_eq, (longDiv_toNat _ nonzero).2, mulLimbs_eq, BitVec.toNat_mul]

theorem powModIteration_toNat {c : Config} (base e : c.Value) {m : c.Value} (nonzero : m ≠ 0) (i : Nat) (r : c.Value) :
    (powModIteration (longDiv base m).2 e m i r).toNat =
      powModNatStep c.B base.toNat e.toNat m.toNat i r.toNat := by
  simp only [powModIteration, powModNatStep, BitVec.testBit_toNat, apply_ite BitVec.toNat, mulMod_toNat _ _ nonzero,
    (longDiv_toNat base nonzero).2]

theorem powModLoop_toNat {c : Config} (base e : c.Value) {m : c.Value} (nonzero : m ≠ 0) (i : Nat) (r : c.Value) :
    (powModLoop (longDiv base m).2 e m i r).toNat =
      powModNatLoop c.B base.toNat e.toNat m.toNat i r.toNat := by
  induction i generalizing r with
  | zero => rfl
  | succ i ih => rw [powModLoop, strictly_eq, ih, powModIteration_toNat base e nonzero, powModNatLoop]

/-- POWMOD's engine computes R202's iteration over the naturals. -/
theorem powModTrunc_toNat {c : Config} (base e : c.Value) {m : c.Value} (nonzero : m ≠ 0) :
    (powModTrunc base e m).toNat = powModNat c.B base.toNat e.toNat m.toNat := by
  have one : (1 : c.Value).toNat = 1 := BitVec.toNat_one c.B_pos
  rw [powModTrunc, strictly_eq, powModLoop_toNat base e nonzero, (longDiv_toNat 1 nonzero).2, one, powModNat]

/-! ## The exactness condition -/

/-- B is even, so `2^B` is the square of `2^(B/2)`. -/
theorem exact_iff_le_half (c : Config) {m : Nat} (pos : 0 < m) :
    (m - 1) ^ 2 < 2 ^ c.B ↔ m ≤ 2 ^ (c.B / 2) := by
  have even : 2 ^ c.B = (2 ^ (c.B / 2)) ^ 2 := by
    have := c.B_mod
    rw [← Nat.pow_mul, Nat.div_mul_cancel (by omega)]
  rw [even, Nat.pow_lt_pow_iff_left (by decide)]
  omega

theorem ne_zero_of_toNat_pos {n : Nat} {v : BitVec n} (pos : 0 < v.toNat) : v ≠ 0 := by
  rintro rfl
  simp at pos

theorem powModTrunc_toNat_of_exact {c : Config} (base e : c.Value) {m : c.Value} (nonzero : m ≠ 0)
    (exactness : (m.toNat - 1) ^ 2 < 2 ^ c.B) : (powModTrunc base e m).toNat = base.toNat ^ e.toNat % m.toNat := by
  rw [powModTrunc_toNat base e nonzero, powModNat_of_exact (BitVec.toNat_pos_of_ne_zero nonzero) exactness _ e.isLt]

/-- The same for a modulus of at most half the width, the form in which a host checks the condition. -/
theorem powModTrunc_toNat_of_le_half {c : Config} (base e : c.Value) {m : c.Value} (pos : 0 < m.toNat)
    (half : m.toNat ≤ 2 ^ (c.B / 2)) : (powModTrunc base e m).toNat = base.toNat ^ e.toNat % m.toNat :=
  powModTrunc_toNat_of_exact base e (ne_zero_of_toNat_pos pos) ((exact_iff_le_half c pos).mpr half)

end Sys2Proof.Machine
end

section
/-! SUPPORT. The statements of 47_exp.md: the words and the results of POW and POWMOD, the exactness condition and the
laws (R200 to R205). -/

namespace Sys2Proof.Machine

theorem exec_pow (s : State) (d b e : Reg) :
    exec (.pow d b e) s = s.commit [(d, s.operand b ^ (s.operand e).toNat)] .none := by
  rw [← powTrunc_eq]; rfl

theorem exec_powmod_zero (s : State) (d b e m : Reg) (zero : s.operand m = 0) :
    exec (.powmod d b e m) s = s.raise .divz := if_pos zero

theorem exec_powmod (s : State) (d b e m : Reg) (nonzero : s.operand m ≠ 0) :
    exec (.powmod d b e m) s =
      s.commit [(d, powModTrunc (s.operand b) (s.operand e) (s.operand m))] .none := if_neg nonzero

/-- Settles O20: square-and-multiply over the exponent's bits is the power in the ring of B-bit values. -/
theorem powCommitsThePower : Obligations.PowCommitsThePower := by
  refine fun s d b e => ⟨decode_fieldsWord rfl rfl rfl, ?_⟩
  rw [exec_pow, State.commit_one, BitVec.ofNat_pow, BitVec.ofNat_toNat, BitVec.setWidth_eq]

/-- Settles O21: the engine's every iteration is R202's over the naturals, and ends with a reduction. -/
theorem powmodCommitsTheTruncatedIteration : Obligations.PowmodCommitsTheTruncatedIteration := by
  refine fun s d b e m => ⟨decode_fieldsWord rfl rfl rfl, fun nonzero => ⟨?_, ?_⟩, fun l cur zero => ?_⟩
  · exact powModNat_lt (BitVec.toNat_pos_of_ne_zero nonzero) _ _ _
  · rw [exec_powmod s d b e m nonzero, State.commit_one, ← powModTrunc_toNat _ _ nonzero, BitVec.ofNat_toNat,
      BitVec.setWidth_eq]
  · rw [exec_powmod_zero s d b e m zero, s.raise_of_latched .divz l cur]

/-- Settles O22: under the condition no product of residues is truncated. -/
theorem powmodIsExactUnderTheCondition : Obligations.PowmodIsExactUnderTheCondition := by
  refine ⟨fun c m pos => exact_iff_le_half c pos, fun s d b e m nonzero exactness => ?_⟩
  rw [exec_powmod s d b e m nonzero, State.commit_one, ← powModTrunc_toNat_of_exact _ _ nonzero exactness,
    BitVec.ofNat_toNat, BitVec.setWidth_eq]

/-- Settles O23: both passes are exact, so the exponents multiply. -/
theorem powmodRoundTripUnderTheCondition : Obligations.PowmodRoundTripUnderTheCondition := by
  intro c msg e d n pos half keyLaw
  apply BitVec.eq_of_toNat_eq
  rw [powModTrunc_toNat_of_le_half _ d pos half, powModTrunc_toNat_of_le_half msg e pos half, ← Nat.pow_mod,
    ← Nat.pow_mul, keyLaw]

/-- Settles O32: the engine obeys the laws of powers in the ring, and a power below `2^B` is not truncated. -/
theorem exponentiationLaws : Obligations.ExponentiationLaws := by
  refine fun c a e e' m => ⟨fun noWrap => ?_, ?_, fun pos half noTruncation => ?_⟩
  · rw [powTrunc_eq, powTrunc_eq, powTrunc_eq, mulLimbs_eq, BitVec.toNat_add_of_lt noWrap, pow_add]
  · rw [powTrunc_eq, shiftLeft_eq, shiftLeft_eq_mul_two_pow, BitVec.ofNat_pow]
    exact (one_mul _).symm
  · apply BitVec.eq_of_toNat_eq
    rw [powModTrunc_toNat_of_le_half a e pos half, (longDiv_toNat _ (ne_zero_of_toNat_pos pos)).2, powTrunc_eq,
      BitVec.toNat_pow, Nat.mod_eq_of_lt noTruncation]

end Sys2Proof.Machine
end

section
/-! SUPPORT. The statements of 60_exceptions.md: what ends in an error, the error record and the interrupt line (R220 to
R229). -/

namespace Sys2Proof.Machine

/-! ## Nothing traps (R220) -/

/-- Every command answers a next state, in which only the block has changed. -/
theorem exec_answers (i : Instr) (s : State) : ∃ b, exec i s = .next (s.withBlk b) := by
  obtain ⟨ws, fl, e⟩ | ⟨code, _, e⟩ := exec_commits_or_raises i s
  · exact ⟨_, e.trans (s.commit_eq ws fl)⟩
  · exact ⟨_, e.trans (s.raise_eq code)⟩

theorem State.engineTurn_answers (s : State) : ∃ t, s.engineTurn = .next t := by
  obtain ⟨_, turn⟩ | ⟨_, l, _, _, turn⟩ | ⟨_, _, turn⟩ := s.engineTurn_cases
  · exact ⟨_, turn⟩
  · obtain ⟨i, _, run⟩ | ⟨_, _, run⟩ := s.runWord_cases l.word
    · obtain ⟨b, e⟩ := exec_answers i s
      exact ⟨_, turn.trans (run.trans e)⟩
    · exact ⟨_, turn.trans (run.trans (s.raise_eq .illegal))⟩
  · exact ⟨_, turn⟩

/-- Settles O38, by the event that is next: only the two host accesses can be refused, and only in reset. -/
theorem nothingStopsButAnAccessInReset : Obligations.NothingStopsButAnAccessInReset := by
  refine ⟨fun i s => ?_, fun s => ?_⟩
  · obtain ⟨b, e⟩ := exec_answers i s
    exact ⟨_, e⟩
  obtain ⟨_, e⟩ | ⟨es, _, e⟩ | ⟨addr, size, es, read, e⟩ | ⟨addr, size, v, es, write, e⟩ | ⟨_, _, _, e⟩ :=
    step_of_schedule s
  · exact .inl (e ▸ s.engineTurn_answers)
  · exact .inl (e ▸ (s.withSchedule es).engineTurn_answers)
  · obtain ⟨_, answered⟩ | ⟨asserted, refused⟩ := State.hostRead_cases (s.withSchedule es) addr size
    · exact .inl ⟨_, e.trans answered⟩
    · exact .inr ⟨asserted, e.trans refused, _, es, read, rfl⟩
  · obtain ⟨_, _, _, _, _, landed⟩ | ⟨_, answered⟩ | ⟨asserted, refused⟩ :=
      State.hostWrite_cases (s.withSchedule es) addr size v
    · exact .inl ⟨_, e.trans landed⟩
    · exact .inl ⟨_, e.trans answered⟩
    · exact .inr ⟨asserted, e.trans refused, _, es, write, rfl⟩
  · exact .inl ⟨_, e⟩

/-! ## ILLEGAL and DIVZ (R222, R223) -/

/-- Settles O8: the engine raises ILLEGAL with the latched word, whatever made the decoder refuse it. -/
theorem illegalWordOnlyRecordsTheError : Obligations.IllegalWordOnlyRecordsTheError := by
  intro s l e es released busy cur refused engine
  rw [step_engine s es engine]
  exact State.engineTurn_of_illegal (s.withSchedule es) l released busy cur (by simp [refused])

/-- A well-formed command with a zero divisor or modulus raises DIVZ, before it computes anything (R223). -/
theorem exec_of_zero_divisor (i : Instr) (s : State) (r : Reg) (wf : i.wf = true) (divisor : i.divisor? = some r)
    (zero : s.operand r = 0) : exec i s = s.raise .divz := by
  cases i with
  | div d a b => cases divisor; exact exec_div_zero s d a _ zero
  | mod d a b => cases divisor; exact exec_mod_zero s d a _ zero
  | divmod q r' a b =>
    cases divisor
    exact exec_divmod_zero s q r' a _ (by simpa [Instr.wf] using wf) zero
  | powmod d b e m => cases divisor; exact exec_powmod_zero s d b e _ zero
  | _ => cases divisor

/-- Settles O16: the latched command is well formed, since it was decoded, and its divisor is read from the snapshot. -/
theorem zeroDivisorOnlyRecordsTheError : Obligations.ZeroDivisorOnlyRecordsTheError := by
  intro s l i r es released busy cur command divisor zero engine
  have wf := ((decode_eq_ok_iff l.word i).mp command).2
  have zeroOperand : (s.withSchedule es).operand r = 0 := (s.blk.operand_of_latched l cur r).trans zero
  rw [step_engine s es engine, State.engineTurn_of_latched (s.withSchedule es) l i released busy cur command,
    exec_of_zero_divisor i _ r wf divisor zeroOperand]
  exact State.raise_of_latched (s.withSchedule es) .divz l cur

/-! ## The error record (R225 to R227) -/

/-- `b'` has the error record of `b`, which is in the error state: ERR stays 1, ERRCODE and ERRCMD stay as they are. -/
def Block.KeepsError {c : Config} (b' b : Block c) : Prop :=
  b'.err = true ∧ b'.errCode = b.errCode ∧ b'.errCmd = b.errCmd

theorem Block.KeepsError.refl {c : Config} {b : Block c} (err : b.err = true) : b.KeepsError b := ⟨err, rfl, rfl⟩

theorem Block.commitOk_keepsError {c : Config} {b : Block c} (err : b.err = true) (ws : List (Reg × c.Value))
    (fl : FlagWrite) : (b.commitOk ws fl).KeepsError b := by
  obtain ⟨same, code, word, _⟩ := b.commitOk_record ws fl
  exact ⟨same.trans err, code, word⟩

/-- The first error is kept (R225). -/
theorem Block.afterError_keepsError {c : Config} {b : Block c} (err : b.err = true) (code : ErrCode) (w : Word) :
    (b.afterError code w).KeepsError b :=
  ⟨rfl, if_pos err, if_pos err⟩

theorem Block.recordError_of_err {c : Config} {b : Block c} (err : b.err = true) (code : ErrCode) (w : Word) :
    b.recordError code w = b := if_pos err

/-- A CMD write is discarded in the error state (R226). -/
theorem Block.writeCmd_of_err {c : Config} {b : Block c} (err : b.err = true) (w : Word) : b.writeCmd w = b :=
  if_pos err

/-- Of all host writes, only one of CTRL with bit 0 set ends the error state. -/
theorem Block.writeTarget_keepsError {c : Config} {b : Block c} (err : b.err = true) (v : Word) (target : Target) :
    (b.writeTarget v target).KeepsError b ∨ (target = .ctrl ∧ v.getLsbD 0 = true) := by
  cases target with
  | cmd =>
    rw [Block.writeTarget, Block.writeCmd_of_err err]
    exact .inl (.refl err)
  | ctrl =>
    rw [Block.writeTarget, Block.writeCtrl_eq]
    cases v.getLsbD 0
    · exact .inl ⟨(Bool.and_true _).trans err, rfl, rfl⟩
    · exact .inr ⟨rfl, rfl⟩
  | window r k =>
    rw [Block.writeTarget]
    cases busy : b.busy
    · rw [b.writeWindow_of_idle r k v busy]
      exact .inl ⟨err, rfl, rfl⟩
    · rw [b.writeWindow_of_busy r k v busy, Block.recordError_of_err err]
      exact .inl (.refl err)
  | status | config | capbits | errcmd | reserved => exact .inl (.refl err)

/-- No offset of the window names CTRL. -/
theorem windowTarget_ne_ctrl (c : Config) (d : Nat) : windowTarget c d ≠ .ctrl := by
  unfold windowTarget
  split <;> nofun

/-- CTRL has one offset (20_memory.md R51). -/
theorem offset_of_targetOf_ctrl (c : Config) (o : BitVec 17) (h : targetOf c o = .ctrl) : o = 0x00008#17 := by
  unfold targetOf at h
  split_ifs at h
  · assumption
  · exact absurd h (windowTarget_ne_ctrl c _)

/-- Settles O37, by the four things a step can do: a commit and a host write keep the first error, but for ERRCLR. -/
theorem errorRecordStaysUntilCleared : Obligations.ErrorRecordStaysUntilCleared := by
  intro s t err next
  obtain reset | ⟨_, l, es, _, _, run⟩ | ⟨o, v, es, released, _, write, rfl⟩ | ⟨es, r, rfl⟩ := step_next s t next
  · exact .inr (.inl reset)
  · obtain ⟨_, ws, fl, _, _, rfl, _, _⟩ | ⟨code, rfl⟩ := State.runWord_next _ _ _ run
    · exact .inl (Block.commitOk_keepsError err ws fl)
    · exact .inl (Block.afterError_keepsError err code _)
  · obtain kept | ⟨ctrl, clear⟩ := Block.writeTarget_keepsError err v (targetOf s.cfg o)
    · exact .inl kept
    · cases offset_of_targetOf_ctrl s.cfg o ctrl
      exact .inr (.inr ⟨released, v, es, clear, write⟩)
  · exact .inl (Block.KeepsError.refl err)

/-- `b'` is idle after a command that ended in the error state of `b`, with the record of `b`. -/
def Block.EndsKeepingError {c : Config} (b' b : Block c) : Prop :=
  b'.busy = false ∧ b'.done = true ∧ b'.cur = none ∧ b'.KeepsError b

theorem Block.afterError_endsKeepingError {c : Config} {b : Block c} (err : b.err = true) (code : ErrCode) (w : Word) :
    (b.afterError code w).EndsKeepingError b :=
  ⟨rfl, rfl, rfl, Block.afterError_keepsError err code w⟩

/-- A command ends in the error state too, and keeps the record (R226). -/
theorem exec_endsKeepingError (i : Instr) (s : State) (err : s.blk.err = true) :
    ∃ b : Block s.cfg, exec i s = .next (s.withBlk b) ∧ b.EndsKeepingError s.blk := by
  obtain ⟨ws, fl, e⟩ | ⟨code, _, e⟩ := exec_commits_or_raises i s
  · exact ⟨_, e.trans (s.commit_eq ws fl), rfl, rfl, rfl, Block.commitOk_keepsError err ws fl⟩
  · exact ⟨_, e.trans (s.raise_eq code), Block.afterError_endsKeepingError err code _⟩

/-- A bus word reads back as it was written (20_memory.md R57). -/
theorem getWord_setWord {n : Nat} (v : BitVec n) (k : Nat) (d : Word) (inValue : 32 * k + 32 ≤ n) :
    getWord (setWord v k d) k = d := by
  apply BitVec.eq_of_getLsbD_eq
  intro i h
  rw [getWord_getLsbD _ k i h, setWord_getLsbD v k d _ (by omega), if_pos (by omega), Nat.add_sub_cancel_left]

/-- Settles O49: a CMD write is discarded, the engine commits whatever word is latched and keeps the record, and the
error state is no condition of a window write. -/
theorem errorStateDiscardsOnlyCommands : Obligations.ErrorStateDiscardsOnlyCommands := by
  refine fun s es released err => ⟨fun w write => ?_, fun l busy cur engine => ?_, fun r k v inReg idle write => ?_⟩
  · rw [step_of_cmdWrite s w es released write, Block.writeCmd_of_err err]
    rfl
  · rw [step_engine s es engine]
    cases decoded : decode l.word with
    | ok i =>
      obtain ⟨b, run, ended⟩ := exec_endsKeepingError i (s.withSchedule es) err
      refine ⟨b, ?_, fun _ command => Except.ok.inj command ▸ run, nofun, ended⟩
      rw [State.engineTurn_of_latched (s.withSchedule es) l i released busy cur decoded, run]
    | error e =>
      refine ⟨s.blk.afterError .illegal l.word, ?_, nofun, fun _ _ => rfl, Block.afterError_endsKeepingError err _ _⟩
      exact State.engineTurn_of_illegal (s.withSchedule es) l released busy cur (by simp [decoded])
  · have inValue : 32 * k + 32 ≤ s.cfg.B := by
      have := s.cfg.B_mod
      omega
    refine ⟨setWord (s.blk.reg r) k v, getWord_setWord _ k v inValue, ?_⟩
    rw [step_of_windowWrite s r k v es inReg released write, s.blk.writeWindow_of_idle r k v idle]
    rfl

/-! ## The interrupt line (R229) -/

theorem Block.irq_iff {c : Config} (b : Block c) : b.irq = true ↔ b.ie = true ∧ (b.done = true ∨ b.err = true) := by
  rw [Block.irq, Bool.and_eq_true, Bool.or_eq_true]

/-- Settles O50: the end of a command sets DONE, and the two clears leave no source. -/
theorem interruptLineFollowsItsSources : Obligations.InterruptLineFollowsItsSources :=
  fun c b => ⟨b.irq_iff, by simp [Block.irq], by simp [Block.irq]⟩

end Sys2Proof.Machine
end

section
/-! SUPPORT. The statements of 70_reset_and_hazards.md on reset and on the commit of every accepted command (R250 to
R252, R263), and the words that 95_test_vectors.md writes out. -/

namespace Sys2Proof.Machine

/-! ## A running command commits (R263) -/

/-- The block as the end of a command leaves it: idle, DONE set, the latch invalid (20_memory.md R59). -/
def Block.Ended {c : Config} (b : Block c) : Prop := b.busy = false ∧ b.done = true ∧ b.cur = none

theorem Block.commitOk_ended {c : Config} (b : Block c) (ws : List (Reg × c.Value)) (fl : FlagWrite) :
    (b.commitOk ws fl).Ended := ⟨rfl, rfl, rfl⟩

theorem Block.afterError_ended {c : Config} (b : Block c) (code : ErrCode) (w : Word) : (b.afterError code w).Ended :=
  ⟨rfl, rfl, rfl⟩

/-- The commit of any word, command or not, ends the command. -/
theorem State.runWord_ends (s : State) (word : Word) :
    ∃ b : Block s.cfg, s.runWord word = .next (s.withBlk b) ∧ b.Ended := by
  obtain ⟨ws, fl, e⟩ | ⟨code, _, e⟩ := s.runWord_commits_or_raises word
  · exact ⟨_, e.trans (s.commit_eq ws fl), s.blk.commitOk_ended ws fl⟩
  · exact ⟨_, e.trans (s.raise_eq code), s.blk.afterError_ended code _⟩

/-- The step of a running command at the engine's turn is its commit. -/
theorem step_ends (s : State) (l : Latch s.cfg) (turn : s.EngineNext) (busy : s.blk.busy = true)
    (cur : s.blk.cur = some l) : ∃ t, step s = .next t ∧ t.blk.Ended := by
  obtain ⟨released, next⟩ := turn
  obtain ⟨es, e⟩ := step_of_engine s next
  have run : (s.withSchedule es).engineTurn = (s.withSchedule es).runWord l.word := by
    simp [State.engineTurn, released, busy, cur]
  obtain ⟨b, commits, ended⟩ := (s.withSchedule es).runWord_ends l.word
  exact ⟨_, e.trans (run.trans commits), ended⟩

/-- With no reset in it a schedule is host accesses up to the engine's turn, scheduled or not (log 3). -/
theorem noReset_accesses_then_engine {es : List Event} (free : noReset es = true) :
    ∃ accesses rest, es = accesses ++ rest ∧ accesses.all Event.isAccess = true ∧
      (rest = [] ∨ ∃ later, rest = .engine :: later) := by
  induction es with
  | nil => exact ⟨[], [], rfl, rfl, .inl rfl⟩
  | cons e es ih =>
    rw [noReset, List.all_cons, Bool.and_eq_true] at free
    obtain ⟨first, free⟩ := free
    cases e with
    | engine => exact ⟨[], .engine :: es, rfl, rfl, .inr ⟨es, rfl⟩⟩
    | resetPin level => exact absurd first nofun
    | read addr size | write addr size v =>
      obtain ⟨accesses, rest, rfl, access, next⟩ := ih free
      exact ⟨_ :: accesses, rest, rfl, access, next⟩

/-- While a command runs its word is latched (10_state.md R24). -/
theorem Block.Coherent.latched {c : Config} {b : Block c} (h : b.Coherent) (busy : b.busy = true) :
    ∃ l, b.cur = some l := by
  obtain ⟨snapshot, _⟩ := h
  obtain ⟨l, cur, _⟩ := Option.map_eq_some_iff.mp (snapshot busy)
  exact ⟨l, cur⟩

/-- Settles O55: the accesses before the engine's turn leave the command latched, and that turn commits it. -/
theorem acceptedCommandAlwaysCommits : Obligations.AcceptedCommandAlwaysCommits := by
  rintro s ⟨coherent, _⟩ busy released free
  obtain ⟨l, cur⟩ := coherent.latched busy
  obtain ⟨accesses, rest, schedule, access, next⟩ := noReset_accesses_then_engine free
  obtain ⟨b, a, same, run⟩ := runSteps_of_accesses accesses rest s released busy access schedule
  obtain ⟨t, commits, ended⟩ := step_ends { s with blk := b, schedule := rest, response := a } l ⟨released, next⟩
    (same.busy.trans busy) (same.cur.trans cur)
  refine ⟨1 + accesses.length, t, ?_, ?_, ended⟩
  · rw [schedule, List.length_append]
    omega
  · rw [run, runSteps_one, commits]

/-! ## The reset values (R251) -/

theorem readReg_replicate {c : Config} (v : c.Value) (r : Reg) : readReg (Vector.replicate nreg v) r = v :=
  Vector.getElem_replicate _

theorem Block.reset_reg (c : Config) (r : Reg) : (Block.reset c).reg r = 0#c.B := readReg_replicate 0 r

theorem Block.reset_statusWord (c : Config) : (Block.reset c).statusWord = 0 := by
  simp [Block.statusWord, Block.reset, ErrCode.bits]

theorem Block.reset_ctrlWord (c : Config) : (Block.reset c).ctrlWord = 0 := by simp [Block.ctrlWord, Block.reset]

/-- Settles O52: the words read are put together from zero fields, and the fields are as the reset block has them. -/
theorem resetValuesAreZero : Obligations.ResetValuesAreZero := by
  refine fun c => ⟨fun r => ?_, Block.reset_statusWord c, rfl, rfl, Block.reset_ctrlWord c, rfl, rfl, rfl, rfl⟩
  exact (congrArg BitVec.toNat (Block.reset_reg c r)).trans BitVec.toNat_zero

/-- Settles O53: the reset values are coherent, and the reset input is released. -/
theorem invariantHoldsAfterReset : Obligations.InvariantHoldsAfterReset :=
  fun c => ⟨Block.reset_coherent c, nofun⟩

/-! ## The reset input (R250, R252) -/

/-- An event that asserts reset or finds it asserted leaves the block at its reset values. -/
theorem step_of_resetPin (s : State) (level : Bool) (es : List Event) (acts : level = true ∨ s.inReset = true)
    (h : s.schedule = .resetPin level :: es) :
    step s = .next { s with blk := Block.reset s.cfg, inReset := level, schedule := es } := by
  have forced : (level || s.inReset) = true := by simpa using acts
  rw [step, h]
  exact congrArg Host.Outcome.next (if_pos forced)

theorem State.hostRead_in_reset (s : State) (offset size : Nat) (asserted : s.inReset = true)
    (inBlock : offset < 2 ^ 17) : s.hostRead (s.cfg.blockBase + offset) size = .refused .accessInReset := by
  simp only [State.hostRead, blockOffset?_add s.cfg offset inBlock, asserted, if_true]

theorem State.hostWrite_in_reset (s : State) (offset size : Nat) (v : Word) (asserted : s.inReset = true)
    (inBlock : offset < 2 ^ 17) : s.hostWrite (s.cfg.blockBase + offset) size v = .refused .accessInReset := by
  simp only [State.hostWrite, blockOffset?_add s.cfg offset inBlock, asserted, if_true]

/-- Settles O51: both edges of the input force the reset values, and in between the bus has no answer. -/
theorem resetForcesResetValues : Obligations.ResetForcesResetValues := by
  refine fun s es => ⟨step_of_resetPin s true es (.inl rfl), fun asserted =>
    ⟨step_of_resetPin s false es (.inr asserted), fun offset size v inBlock => ⟨fun read => ?_, fun write => ?_⟩⟩⟩
  · rw [step_read s _ size es read]
    exact State.hostRead_in_reset (s.withSchedule es) offset size asserted inBlock
  · rw [step_write s _ size v es write]
    exact State.hostWrite_in_reset (s.withSchedule es) offset size v asserted inBlock

/-! ## Words of 95_test_vectors.md -/

/-- Settles O5: nine words are what `encode` gives of their commands, and the three others fail one check each. -/
theorem wordsOfTheSpecDecode : Obligations.WordsOfTheSpecDecode := by
  have command := decodeOfEncodeIsTheCommand
  exact ⟨command (.add 1 2 3) rfl, command (.inc 1) rfl, command (.divmod 3 4 1 2) rfl, command (.lshi 3 1 4) rfl,
    command (.powmod 5 1 2 3) rfl, command (.cmp 1 2) rfl, command (.tst 2) rfl, command (.mov 1 2) rfl,
    command (.li 3 3233) rfl, rfl, decode_divmod_same 3 1 2, decode_of_reserved 0 (.inl rfl)⟩

end Sys2Proof.Machine
end
